-- ==== Sys2Proof/Word.lean ====
section
/-!
DEFINITION. The machine's word types (10_state.md R21 to R26, 30_encoding.md R71).
-/

namespace Sys2Proof

/-- A memory cell, a general register, a timer (R21, R28, R29, R50). -/
abbrev Byte := BitVec 8

/-- An opcode, `I`, `PC`, a stack entry (R23, R24, R26, R70). -/
abbrev Half := BitVec 16

/-- The `nnn` field: a 12-bit address (R71). -/
abbrev Addr := BitVec 12

/-- A general register's number, the `x` or `y` field (R21, R71). -/
abbrev RegIdx := Fin 16

/-- `VF`, the flag register (R22). -/
abbrev vf : RegIdx := 15

/-- `V0`, which `JP V0, nnn` reads implicitly (R21, R108). -/
abbrev v0 : RegIdx := 0

end Sys2Proof
end

