-- ==== Sys2Proof/Config.lean ====
section
/-!
DEFINITION. The parameters of 00_scope.md R6: the fixed ones as constants, the ones a model may take as
arguments as the structure `Config`, and the values the spec leaves open as constants without a body.
-/

namespace Sys2Proof

/-- What a not-found word does to `PC` (60_exceptions.md R221, `UNKNOWN_OPCODE_POLICY`). -/
inductive UnknownOpcodePolicy where
  | stay
  | advance
  | halt
  deriving DecidableEq, Repr

/-- The parameters a model takes as arguments (R6). R7: "A model must require `COLS >= 1` and `ROWS >= 1`"; no
`Config` is without a row or a column. -/
structure Config where
  /-- `ROWS` (R6, R180). -/
  rows : Nat
  /-- `COLS` (R6, R180). -/
  cols : Nat
  /-- R7: `ROWS >= 1`. -/
  rows_pos : 1 ≤ rows
  /-- R7: `COLS >= 1`. -/
  cols_pos : 1 ≤ cols
  /-- `CYCLES_PER_FRAME` (R6, R230). -/
  cyclesPerFrame : Nat
  /-- `UNKNOWN_OPCODE_POLICY` (R6, R221). -/
  unknownOpcode : UnknownOpcodePolicy
  /-- `FONT`, the 80 glyph bytes (R6, R55). -/
  font : Vector Byte 80
  deriving DecidableEq, Repr

/-- `MEM_SIZE` (R6, R50). -/
abbrev Config.memSize : Nat := 4096

/-- The highest memory address, 0xFFF (R50, R53). -/
abbrev Config.lastAddr : Nat := 0xFFF

/-- `FONT_BASE` (R6, R54). -/
abbrev Config.fontBase : Nat := 0x050

/-- `PROGRAM_BASE` (R6, R54). -/
abbrev Config.programBase : Nat := 0x200

/-- The longest program image, 3584 bytes (R54, R261). -/
abbrev Config.maxImage : Nat := 3584

/-- The highest `PC` a fetch accepts, 0xFFE (R24, R78). -/
abbrev Config.lastFetch : Nat := 0xFFE

/-- The default `FONT` (R55), one digit a line. -/
def Config.defaultFont : List Byte :=
  [0xF0, 0x90, 0x90, 0x90, 0xF0] ++
  [0x20, 0x60, 0x20, 0x20, 0x70] ++
  [0xF0, 0x10, 0xF0, 0x80, 0xF0] ++
  [0xF0, 0x10, 0xF0, 0x10, 0xF0] ++
  [0x90, 0x90, 0xF0, 0x10, 0x10] ++
  [0xF0, 0x80, 0xF0, 0x10, 0xF0] ++
  [0xF0, 0x80, 0xF0, 0x90, 0xF0] ++
  [0xF0, 0x10, 0x20, 0x40, 0x40] ++
  [0xF0, 0x90, 0xF0, 0x90, 0xF0] ++
  [0xF0, 0x90, 0xF0, 0x10, 0xF0] ++
  [0xF0, 0x90, 0xF0, 0x90, 0x90] ++
  [0xE0, 0x90, 0xE0, 0x90, 0xE0] ++
  [0xF0, 0x80, 0x80, 0x80, 0xF0] ++
  [0xE0, 0x90, 0x90, 0x90, 0xE0] ++
  [0xF0, 0x80, 0xF0, 0x80, 0xF0] ++
  [0xF0, 0x80, 0xF0, 0x80, 0x80]

/-- The default parameters (R6, decisions D5, D39, D40). -/
def Config.default : Config where
  rows := 32
  cols := 64
  rows_pos := by decide
  cols_pos := by decide
  cyclesPerFrame := 9
  unknownOpcode := .stay
  font := ⟨Config.defaultFont.toArray, by decide⟩

/-- `Draw8()` (42_alu.md R143): the `k`-th random draw. A free value: it has no body, so a claim about a
program that draws holds for every sequence of draws (log entry 1). -/
opaque Config.draw8 : Nat → Byte

/-- `SCALE_R`, which the spec leaves OPEN (R6, R185, decision D36; log entry 2). -/
opaque Config.scaleR : Byte

/-- `SCALE_G`, which the spec leaves OPEN (R6, R185, decision D36; log entry 2). -/
opaque Config.scaleG : Byte

/-- `SCALE_B`, which the spec leaves OPEN (R6, R185, decision D36; log entry 2). -/
opaque Config.scaleB : Byte

end Sys2Proof
end

