-- ==== Sys2Proof/Syntax.lean ====
section
/-!
DEFINITION. The 35 instructions of spec/opcode_table.json (30_encoding.md R74, R80), one constructor a row, in
the table's order. The operands carry their ranges in their types: `x`, `y` and the count `n` below 16, `kk`
8 bits, `nnn` 12 bits (R72).
-/

namespace Sys2Proof

/-- One constructor per row of the opcode table. -/
inductive Instr where
  /-- `IDLE`, `0000` (R100). -/
  | idle
  /-- `CLS`, `00E0` (R187). -/
  | cls
  /-- `RET`, `00EE` (R103). -/
  | ret
  /-- `JP nnn`, `1nnn` (R101). -/
  | jp (nnn : Addr)
  /-- `CALL nnn`, `2nnn` (R102). -/
  | call (nnn : Addr)
  /-- `SE Vx, kk`, `3xkk` (R104). -/
  | seImm (x : RegIdx) (kk : Byte)
  /-- `SNE Vx, kk`, `4xkk` (R105). -/
  | sneImm (x : RegIdx) (kk : Byte)
  /-- `SE Vx, Vy`, `5xy0` (R106). -/
  | seReg (x y : RegIdx)
  /-- `LD Vx, kk`, `6xkk` (R130). -/
  | ldImm (x : RegIdx) (kk : Byte)
  /-- `ADD Vx, kk`, `7xkk` (R132). -/
  | addImm (x : RegIdx) (kk : Byte)
  /-- `LD Vx, Vy`, `8xy0` (R131). -/
  | ldReg (x y : RegIdx)
  /-- `OR Vx, Vy`, `8xy1` (R136). -/
  | orReg (x y : RegIdx)
  /-- `AND Vx, Vy`, `8xy2` (R137). -/
  | andReg (x y : RegIdx)
  /-- `XOR Vx, Vy`, `8xy3` (R138). -/
  | xorReg (x y : RegIdx)
  /-- `ADD Vx, Vy`, `8xy4` (R133). -/
  | addReg (x y : RegIdx)
  /-- `SUB Vx, Vy`, `8xy5` (R134). -/
  | sub (x y : RegIdx)
  /-- `SHR Vx, Vy`, `8xy6` (R139); `y` is decoded and not read. -/
  | shr (x y : RegIdx)
  /-- `SUBN Vx, Vy`, `8xy7` (R135). -/
  | subn (x y : RegIdx)
  /-- `SHL Vx, Vy`, `8xyE` (R140); `y` is decoded and not read. -/
  | shl (x y : RegIdx)
  /-- `SNE Vx, Vy`, `9xy0` (R107). -/
  | sneReg (x y : RegIdx)
  /-- `LD I, nnn`, `Annn` (R160). -/
  | ldI (nnn : Addr)
  /-- `JP V0, nnn`, `Bnnn` (R108). -/
  | jpV0 (nnn : Addr)
  /-- `RND Vx, kk`, `Cxkk` (R141). -/
  | rnd (x : RegIdx) (kk : Byte)
  /-- `DRW Vx, Vy, n`, `Dxyn` (R186). -/
  | drw (x y : RegIdx) (n : Fin 16)
  /-- `SKP Vx`, `Ex9E` (R200). -/
  | skp (x : RegIdx)
  /-- `SKNP Vx`, `ExA1` (R201). -/
  | sknp (x : RegIdx)
  /-- `LD Vx, DT`, `Fx07` (R202). -/
  | ldVxDt (x : RegIdx)
  /-- `LD Vx, K`, `Fx0A` (R205). -/
  | ldVxK (x : RegIdx)
  /-- `LD DT, Vx`, `Fx15` (R203). -/
  | ldDtVx (x : RegIdx)
  /-- `LD ST, Vx`, `Fx18` (R204). -/
  | ldStVx (x : RegIdx)
  /-- `ADD I, Vx`, `Fx1E` (R161). -/
  | addI (x : RegIdx)
  /-- `LD F, Vx`, `Fx29` (R162). -/
  | ldF (x : RegIdx)
  /-- `LD B, Vx`, `Fx33` (R163). -/
  | ldB (x : RegIdx)
  /-- `LD [I], Vx`, `Fx55` (R164). -/
  | storeRegs (x : RegIdx)
  /-- `LD Vx, [I]`, `Fx65` (R165). -/
  | loadRegs (x : RegIdx)
  deriving DecidableEq, Repr

end Sys2Proof
end

