-- ==== Sys2Proof/WellFormed.lean ====
section
/-!
DEFINITION. What a model's parameters must satisfy (00_scope.md R6, R7), checked where values become a `Config`. An
instruction needs no check of its own: every operand's range (R72) is in its type, so no term of `Instr` is
ill-formed (log entry 8).
-/

namespace Sys2Proof

/-- The parameters with the given values, or none: R7 requires at least one row and one column, and R55 gives the font
80 bytes. -/
def Config.ofValues (rows cols cyclesPerFrame : Nat) (unknownOpcode : UnknownOpcodePolicy) (font : List Byte) :
    Option Config :=
  if h : 1 ≤ rows ∧ 1 ≤ cols ∧ font.length = 80 then
    some { rows, cols, cyclesPerFrame, unknownOpcode, rows_pos := h.1, cols_pos := h.2.1,
           font := ⟨font.toArray, h.2.2⟩ }
  else none

/-- R7: the displays on which one sprite touches no cell twice: a sprite is 8 columns wide and at most 15 rows
high. -/
def Config.spriteFits (c : Config) (height : Nat) : Bool :=
  decide (8 ≤ c.cols) && decide (height ≤ c.rows)

/-- Every term of `Instr` is well-formed: the operand ranges of R72 are its operands' types. -/
def Instr.wf (_ : Instr) : Bool := true

end Sys2Proof
end

