-- ==== Sys2Proof/Decode.lean ====
section
/-!
DEFINITION. Decoding and encoding (30_encoding.md R70 to R77, R80, R81). The decoder is the mask and match table
of R74, read row by row; the encoder is written from the formats of R71.
-/

namespace Sys2Proof

/-! ### Fields (R71) -/

/-- `nnn`, `op[11:0]`. -/
def fieldNnn (op : Half) : Addr := op.extractLsb' 0 12

/-- `kk`, `op[7:0]`. -/
def fieldKk (op : Half) : Byte := op.extractLsb' 0 8

/-- `x`, `op[11:8]`. -/
def fieldX (op : Half) : RegIdx := (op.extractLsb' 8 4).toFin

/-- `y`, `op[7:4]`. -/
def fieldY (op : Half) : RegIdx := (op.extractLsb' 4 4).toFin

/-- `n`, `op[3:0]`. -/
def fieldN (op : Half) : Fin 16 := (op.extractLsb' 0 4).toFin

/-- The five fields, which the decoder extracts from every word, used or not (R71). -/
structure Fields where
  nnn : Addr
  kk : Byte
  x : RegIdx
  y : RegIdx
  n : Fin 16
  deriving DecidableEq, Repr

/-- The fields of a word (R71). -/
def fieldsOf (op : Half) : Fields where
  nnn := fieldNnn op
  kk := fieldKk op
  x := fieldX op
  y := fieldY op
  n := fieldN op

/-! ### The decode table (R74) -/

/-- One row of R74: a word `op` selects it when `op & mask == match`. -/
structure DecodeRow where
  /-- The row's mnemonic as spec/opcode_table.json spells it. -/
  mnemonic : String
  mask : Half
  pattern : Half
  /-- The operation, from the word's fields. -/
  build : Fields → Instr

/-- R74: "A word `op` selects a row when `op & mask == match`". -/
def DecodeRow.selects (r : DecodeRow) (op : Half) : Bool := (op &&& r.mask) == r.pattern

/-- The rows with major nibble 0 to 7 (R74). -/
def rowsLow : List DecodeRow :=
  [⟨"IDLE", 0xFFFF, 0x0000, fun _ => .idle⟩,
   ⟨"CLS", 0xFFFF, 0x00E0, fun _ => .cls⟩,
   ⟨"RET", 0xFFFF, 0x00EE, fun _ => .ret⟩,
   ⟨"JP_nnn", 0xF000, 0x1000, fun f => .jp f.nnn⟩,
   ⟨"CALL_nnn", 0xF000, 0x2000, fun f => .call f.nnn⟩,
   ⟨"SE_Vx__kk", 0xF000, 0x3000, fun f => .seImm f.x f.kk⟩,
   ⟨"SNE_Vx__kk", 0xF000, 0x4000, fun f => .sneImm f.x f.kk⟩,
   ⟨"SE_Vx__Vy", 0xF00F, 0x5000, fun f => .seReg f.x f.y⟩,
   ⟨"LD_Vx__kk", 0xF000, 0x6000, fun f => .ldImm f.x f.kk⟩,
   ⟨"ADD_Vx__kk", 0xF000, 0x7000, fun f => .addImm f.x f.kk⟩]

/-- The rows with major nibble 8 (R74). -/
def rowsAlu : List DecodeRow :=
  [⟨"LD_Vx__Vy", 0xF00F, 0x8000, fun f => .ldReg f.x f.y⟩,
   ⟨"OR_Vx__Vy", 0xF00F, 0x8001, fun f => .orReg f.x f.y⟩,
   ⟨"AND_Vx__Vy", 0xF00F, 0x8002, fun f => .andReg f.x f.y⟩,
   ⟨"XOR_Vx__Vy", 0xF00F, 0x8003, fun f => .xorReg f.x f.y⟩,
   ⟨"ADD_Vx__Vy", 0xF00F, 0x8004, fun f => .addReg f.x f.y⟩,
   ⟨"SUB_Vx__Vy", 0xF00F, 0x8005, fun f => .sub f.x f.y⟩,
   ⟨"SHR_Vx__Vy", 0xF00F, 0x8006, fun f => .shr f.x f.y⟩,
   ⟨"SUBN_Vx__Vy", 0xF00F, 0x8007, fun f => .subn f.x f.y⟩,
   ⟨"SHL_Vx__Vy", 0xF00F, 0x800E, fun f => .shl f.x f.y⟩]

/-- The rows with major nibble 9 to E (R74). -/
def rowsHigh : List DecodeRow :=
  [⟨"SNE_Vx__Vy", 0xF00F, 0x9000, fun f => .sneReg f.x f.y⟩,
   ⟨"LD_I__nnn", 0xF000, 0xA000, fun f => .ldI f.nnn⟩,
   ⟨"JP_V0__nnn", 0xF000, 0xB000, fun f => .jpV0 f.nnn⟩,
   ⟨"RND_Vx__kk", 0xF000, 0xC000, fun f => .rnd f.x f.kk⟩,
   ⟨"DRW_Vx__Vy__n", 0xF000, 0xD000, fun f => .drw f.x f.y f.n⟩,
   ⟨"SKP_Vx", 0xF0FF, 0xE09E, fun f => .skp f.x⟩,
   ⟨"SKNP_Vx", 0xF0FF, 0xE0A1, fun f => .sknp f.x⟩]

/-- The rows with major nibble F (R74). -/
def rowsMisc : List DecodeRow :=
  [⟨"LD_Vx__DT", 0xF0FF, 0xF007, fun f => .ldVxDt f.x⟩,
   ⟨"LD_Vx__K", 0xF0FF, 0xF00A, fun f => .ldVxK f.x⟩,
   ⟨"LD_DT__Vx", 0xF0FF, 0xF015, fun f => .ldDtVx f.x⟩,
   ⟨"LD_ST__Vx", 0xF0FF, 0xF018, fun f => .ldStVx f.x⟩,
   ⟨"ADD_I__Vx", 0xF0FF, 0xF01E, fun f => .addI f.x⟩,
   ⟨"LD_F__Vx", 0xF0FF, 0xF029, fun f => .ldF f.x⟩,
   ⟨"LD_B__Vx", 0xF0FF, 0xF033, fun f => .ldB f.x⟩,
   ⟨"LD__I___Vx", 0xF0FF, 0xF055, fun f => .storeRegs f.x⟩,
   ⟨"LD_Vx___I", 0xF0FF, 0xF065, fun f => .loadRegs f.x⟩]

/-- The decode table of R74, all 35 rows in its order. -/
def decodeTable : List DecodeRow := rowsLow ++ rowsAlu ++ rowsHigh ++ rowsMisc

/-! ### Decode -/

/-- Why bytes decode to nothing: the kinds of not-found words, one for each line of R76, and too few bytes for
a word (R70). -/
inductive DecodeError where
  /-- Fewer than two bytes. -/
  | truncated
  /-- `0nnn` with `nnn` not 0x000, 0x0E0 or 0x0EE. -/
  | unknownSystem
  /-- `5xyN` with `N != 0`. -/
  | unknownSkipEqual
  /-- `8xyN` with `N` in 8 to D, or F. -/
  | unknownArithmetic
  /-- `9xyN` with `N != 0`. -/
  | unknownSkipNotEqual
  /-- `ExNN` with `NN` not 9E or A1. -/
  | unknownKey
  /-- `FxNN` with `NN` not one of the nine sub-operations. -/
  | unknownMisc
  deriving DecidableEq, Repr

/-- The line of R76 that a not-found word is on, which its major nibble tells. -/
def notFoundKind (op : Half) : DecodeError :=
  match op.toNat / 0x1000 with
  | 0x0 => .unknownSystem
  | 0x5 => .unknownSkipEqual
  | 0x8 => .unknownArithmetic
  | 0x9 => .unknownSkipNotEqual
  | 0xE => .unknownKey
  | _ => .unknownMisc

/-- Decode one word (R73, R74): the first row that selects it, or not found. -/
def decodeWord (op : Half) : Except DecodeError Instr :=
  match decodeTable.find? (fun r => r.selects op) with
  | some r => .ok (r.build (fieldsOf op))
  | none => .error (notFoundKind op)

/-- The word of two consecutive bytes, the first the high byte (20_memory.md R57, R70). -/
def wordOfBytes (hi lo : Byte) : Half := BitVec.ofNat 16 (hi.toNat * 256 + lo.toNat)

/-- Decode the first instruction of a byte sequence; answer it and the bytes after it (R70, R57). -/
def decode : List Byte → Except DecodeError (Instr × List Byte)
  | hi :: lo :: rest =>
    match decodeWord (wordOfBytes hi lo) with
    | .ok i => .ok (i, rest)
    | .error e => .error e
  | [_] => .error .truncated
  | [] => .error .truncated

/-! ### Encode (R71, R74) -/

/-- The `nnn` format: major nibble, 12-bit address. -/
def formatNnn (major : Nat) (nnn : Addr) : Half := BitVec.ofNat 16 (major * 0x1000 + nnn.toNat)

/-- The `xkk` format: major nibble, `x`, 8-bit immediate. -/
def formatXkk (major : Nat) (x : RegIdx) (kk : Byte) : Half :=
  BitVec.ofNat 16 (major * 0x1000 + x.val * 0x100 + kk.toNat)

/-- The `xy` and `xyn` formats: major nibble, `x`, `y`, last nibble. -/
def formatXyn (major : Nat) (x y : RegIdx) (n : Nat) : Half :=
  BitVec.ofNat 16 (major * 0x1000 + x.val * 0x100 + y.val * 0x10 + n)

/-- The `x` format: major nibble, `x`, 8-bit sub-operation. -/
def formatX (major : Nat) (x : RegIdx) (sub : Nat) : Half :=
  BitVec.ofNat 16 (major * 0x1000 + x.val * 0x100 + sub)

/-- The word of an instruction (R71, R74, R80). -/
def encode : Instr → Half
  | .idle => 0x0000
  | .cls => 0x00E0
  | .ret => 0x00EE
  | .jp nnn => formatNnn 0x1 nnn
  | .call nnn => formatNnn 0x2 nnn
  | .seImm x kk => formatXkk 0x3 x kk
  | .sneImm x kk => formatXkk 0x4 x kk
  | .seReg x y => formatXyn 0x5 x y 0x0
  | .ldImm x kk => formatXkk 0x6 x kk
  | .addImm x kk => formatXkk 0x7 x kk
  | .ldReg x y => formatXyn 0x8 x y 0x0
  | .orReg x y => formatXyn 0x8 x y 0x1
  | .andReg x y => formatXyn 0x8 x y 0x2
  | .xorReg x y => formatXyn 0x8 x y 0x3
  | .addReg x y => formatXyn 0x8 x y 0x4
  | .sub x y => formatXyn 0x8 x y 0x5
  | .shr x y => formatXyn 0x8 x y 0x6
  | .subn x y => formatXyn 0x8 x y 0x7
  | .shl x y => formatXyn 0x8 x y 0xE
  | .sneReg x y => formatXyn 0x9 x y 0x0
  | .ldI nnn => formatNnn 0xA nnn
  | .jpV0 nnn => formatNnn 0xB nnn
  | .rnd x kk => formatXkk 0xC x kk
  | .drw x y n => formatXyn 0xD x y n.val
  | .skp x => formatX 0xE x 0x9E
  | .sknp x => formatX 0xE x 0xA1
  | .ldVxDt x => formatX 0xF x 0x07
  | .ldVxK x => formatX 0xF x 0x0A
  | .ldDtVx x => formatX 0xF x 0x15
  | .ldStVx x => formatX 0xF x 0x18
  | .addI x => formatX 0xF x 0x1E
  | .ldF x => formatX 0xF x 0x29
  | .ldB x => formatX 0xF x 0x33
  | .storeRegs x => formatX 0xF x 0x55
  | .loadRegs x => formatX 0xF x 0x65

/-- The two bytes of a word as memory holds them, high byte first (R57). -/
def bytesOfWord (op : Half) : List Byte :=
  [BitVec.ofNat 8 (op.toNat / 256), BitVec.ofNat 8 (op.toNat % 256)]

/-- The bytes of an instruction (R57, R70). -/
def encodeBytes (i : Instr) : List Byte := bytesOfWord (encode i)

/-! ### Assembler notation (R80, R81) -/

/-- One line of an assembler source (R80): an instruction, a shift written with one operand, `DW 0xhhhh` or
`DB 0xhh`. -/
inductive AsmLine where
  | instr (i : Instr)
  | shrOne (x : RegIdx)
  | shlOne (x : RegIdx)
  | dw (w : Half)
  | db (b : Byte)
  deriving DecidableEq, Repr

/-- The bytes of a line: a one-operand shift has `y = 0`, a data word goes high byte first (R80). -/
def AsmLine.bytes : AsmLine → List Byte
  | .instr i => encodeBytes i
  | .shrOne x => encodeBytes (.shr x 0)
  | .shlOne x => encodeBytes (.shl x 0)
  | .dw w => bytesOfWord w
  | .db b => [b]

/-- The bytes of a source; there are no pseudo-instructions (R80, R81). -/
def assemble (lines : List AsmLine) : List Byte := lines.flatMap AsmLine.bytes

/-- One hexadecimal digit, as a capital. -/
def hexDigit (d : Nat) : Char := "0123456789ABCDEF".toList.getD d '?'

/-- The `digits` lowest hexadecimal digits of a number, the most significant first. -/
def hexDigits (digits v : Nat) : String :=
  String.ofList ((List.range digits).reverse.map fun k => hexDigit (v / 16 ^ k % 16))

/-- A hexadecimal immediate, `0x..` (R80). -/
def hexImm (digits v : Nat) : String := "0x" ++ hexDigits digits v

/-- A register's name, `V0` to `VF` (R80). -/
def regName (x : RegIdx) : String := "V" ++ hexDigits 1 x.val

/-- A two-operand line. -/
def asm2 (m a b : String) : String := m ++ " " ++ a ++ ", " ++ b

/-- The assembler syntax of an instruction (R80). -/
def Instr.asm : Instr → String
  | .idle => "IDLE"
  | .cls => "CLS"
  | .ret => "RET"
  | .jp nnn => "JP " ++ hexImm 3 nnn.toNat
  | .call nnn => "CALL " ++ hexImm 3 nnn.toNat
  | .seImm x kk => asm2 "SE" (regName x) (hexImm 2 kk.toNat)
  | .sneImm x kk => asm2 "SNE" (regName x) (hexImm 2 kk.toNat)
  | .seReg x y => asm2 "SE" (regName x) (regName y)
  | .ldImm x kk => asm2 "LD" (regName x) (hexImm 2 kk.toNat)
  | .addImm x kk => asm2 "ADD" (regName x) (hexImm 2 kk.toNat)
  | .ldReg x y => asm2 "LD" (regName x) (regName y)
  | .orReg x y => asm2 "OR" (regName x) (regName y)
  | .andReg x y => asm2 "AND" (regName x) (regName y)
  | .xorReg x y => asm2 "XOR" (regName x) (regName y)
  | .addReg x y => asm2 "ADD" (regName x) (regName y)
  | .sub x y => asm2 "SUB" (regName x) (regName y)
  | .shr x y => asm2 "SHR" (regName x) (regName y)
  | .subn x y => asm2 "SUBN" (regName x) (regName y)
  | .shl x y => asm2 "SHL" (regName x) (regName y)
  | .sneReg x y => asm2 "SNE" (regName x) (regName y)
  | .ldI nnn => asm2 "LD" "I" (hexImm 3 nnn.toNat)
  | .jpV0 nnn => asm2 "JP" "V0" (hexImm 3 nnn.toNat)
  | .rnd x kk => asm2 "RND" (regName x) (hexImm 2 kk.toNat)
  | .drw x y n => asm2 "DRW" (regName x) (regName y) ++ ", " ++ hexImm 1 n.val
  | .skp x => "SKP " ++ regName x
  | .sknp x => "SKNP " ++ regName x
  | .ldVxDt x => asm2 "LD" (regName x) "DT"
  | .ldVxK x => asm2 "LD" (regName x) "K"
  | .ldDtVx x => asm2 "LD" "DT" (regName x)
  | .ldStVx x => asm2 "LD" "ST" (regName x)
  | .addI x => asm2 "ADD" "I" (regName x)
  | .ldF x => asm2 "LD" "F" (regName x)
  | .ldB x => asm2 "LD" "B" (regName x)
  | .storeRegs x => asm2 "LD" "[I]" (regName x)
  | .loadRegs x => asm2 "LD" (regName x) "[I]"

/-- The text of a line (R80). -/
def AsmLine.text : AsmLine → String
  | .instr i => i.asm
  | .shrOne x => "SHR " ++ regName x
  | .shlOne x => "SHL " ++ regName x
  | .dw w => "DW " ++ hexImm 4 w.toNat
  | .db b => "DB " ++ hexImm 2 b.toNat

/-! ### The host's view of a table word -/

/-- The word the host means by `(nbits, w)`: its bits above `nbits` are 0, and an instruction has one word
(R70). -/
def tableWord (nbits w : Nat) : Half := BitVec.ofNat 16 (w % 2 ^ nbits)

/-- What the decoder reads from the table word `w`, laid out in memory as the hardware stores it, high byte
first (R57; log entry 9). -/
def decodeTableWord (nbits w : Nat) : Option Instr :=
  match decode (bytesOfWord (tableWord nbits w)) with
  | .ok (i, _) => some i
  | .error _ => none

end Sys2Proof
end

