-- ==== Sys2Proof/Machine/State.lean ====
section
/-!
DEFINITION. The machine's state (10_state.md R20 to R40), the reasons a step can stop, and the state right after
initialization.
-/

namespace Sys2Proof.Machine

/-! ### Why a step stops -/

/-- The spec's fatal fault codes (60_exceptions.md R223). A cycle that raises one is a step to a NEXT state,
the one R222 describes, in which `FAULT` holds the code. -/
inductive FaultCode where
  /-- 1: a fetch with `PC > 0xFFE`. -/
  | pcOutOfRange
  /-- 2: a call with `SP = 16`. -/
  | stackOverflow
  /-- 3: a return with `SP = 0`. -/
  | stackUnderflow
  /-- 4: an `I`-relative byte beyond 0xFFF. -/
  | memOutOfRange
  /-- 5: a key number `Vx > 0xF`. -/
  | keyIndexOutOfRange
  /-- 6: a not-found word under the policy `halt`. -/
  | unknownOpcode
  deriving DecidableEq, Repr

/-- The number of a fault code (R223). -/
def FaultCode.number : FaultCode → Nat
  | .pcOutOfRange => 1
  | .stackOverflow => 2
  | .stackUnderflow => 3
  | .memOutOfRange => 4
  | .keyIndexOutOfRange => 5
  | .unknownOpcode => 6

/-- Where the machine is stuck: it has no execution task, so there is no cycle to run. No instruction ends in
one of these; only `step` answers them. -/
inductive Fault where
  /-- Raised by `step` when the host has not called `start()` and no host call is pending (R263 to R265). Safe:
  the machine does nothing until that call (log entry 10). -/
  | notStarted
  /-- Raised by `step` when the execution task has exited, by a stop request or by the fatal fault `code`, which
  is surfaced to the host (R222, R227, R233). Safe: no further cycle runs (log entry 10). -/
  | taskExited (code : Option FaultCode)
  deriving DecidableEq, Repr

/-- Why an instruction is refused. -/
inductive Refusal where
  /-- Raised by an arm of `exec` whose instruction has no meaning yet; no arm is such. Safe. -/
  | notModelled (mnemonic : String)
  deriving DecidableEq, Repr

/-! ### Parts of the state -/

/-- `MEM` (20_memory.md R50): the bytes that differ from their initial contents, by rising address. -/
abbrev Memory := List Host.Cell

/-- The pixels of a screen, row-major: the cell of row `r`, column `c` is number `r * COLS + c`
(R31, 44_display.md R180). `true` is 1. -/
abbrev Framebuffer := List Bool

/-- The 16 keys, `true` for down (R30). -/
abbrev Keys := Vector Bool 16

/-- `LIFE` (R35). -/
inductive Life where
  | idle
  | running
  | stopped
  deriving DecidableEq, Repr

/-- A pending `Fx0A` wait, `(x, REF)` (R36). -/
structure KeyWait where
  /-- The destination register. -/
  x : RegIdx
  /-- `REF`, the keypad state the wait compares against. -/
  ref : Keys
  deriving DecidableEq, Repr

/-- The execution task (60_exceptions.md R230, 70_reset_and_hazards.md R265, R266; log entry 4). -/
inductive Task where
  /-- `start()` has not spawned it. -/
  | notSpawned
  /-- It runs; `slot` cycles of the current frame are done. -/
  | live (slot : Nat)
  /-- It has exited, at a poll (R233) or by a fatal fault (R222). -/
  | exited
  deriving DecidableEq, Repr

/-- One `NotFound(op, pc)` report (R221, R240). -/
structure NotFoundReport where
  op : Half
  pc : Half
  deriving DecidableEq, Repr

/-- Errors at the host boundary (R229). -/
inductive HostError where
  | ioError
  | memoryError
  | threadError
  | invalidState
  deriving DecidableEq, Repr

/-- A host operation on the machine (R246). What the host's environment decides is its argument. -/
inductive HostCall where
  /-- `start()`; `spawned`: whether the execution task could be spawned (R265). -/
  | start (spawned : Bool)
  /-- `stop()`; `joined`: whether the join, once the task has exited, succeeds (R266). -/
  | stop (joined : Bool)
  /-- A request to initialize this machine again (R262). -/
  | reinit
  /-- The keypad bridge writes the whole `HOST_KEY` under the lock (R245, decision D41). -/
  | writeKeys (keys : Keys)
  deriving DecidableEq, Repr

/-- What a host call returned. -/
inductive HostReply where
  | done
  | error (e : HostError)
  deriving DecidableEq, Repr

/-- The state record (R20), the host's side of it (R30, R32), and what the model adds (log entries 1, 3 to 6). -/
structure State where
  /-- The parameters (R6); no step changes them. -/
  config : Config
  /-- `MEM` (R50). -/
  mem : Memory
  /-- `V0` to `VF` (R21). -/
  v : Vector Byte 16
  /-- `I` (R23). -/
  i : Half
  /-- `PC` (R24). -/
  pc : Half
  /-- `STACK` (R26). -/
  stack : Vector Half 16
  /-- `SP`, the number of entries in use, 0 to 16 (R27). -/
  sp : Fin 17
  /-- `DT` (R28). -/
  dt : Byte
  /-- `ST` (R29). -/
  st : Byte
  /-- `KEY`, the core's latch (R30). -/
  key : Keys
  /-- `HOST_KEY`, the host's copy (R30). -/
  hostKey : Keys
  /-- `FB` (R31). -/
  fb : Framebuffer
  /-- `PUB`, the published copy (R32). -/
  pub : Framebuffer
  /-- `CYCLES` (R33). -/
  cycles : Nat
  /-- `RUNNING` (R34). -/
  running : Bool
  /-- `LIFE` (R35). -/
  life : Life
  /-- `WAIT` (R36). -/
  wait : Option KeyWait
  /-- `FAULT` (R37). -/
  fault : Option FaultCode
  /-- The execution task and its place in the frame (R230). -/
  task : Task
  /-- The `stop()` calls that wait for the task to exit, oldest first: whether each join will succeed (R266). -/
  joining : List Bool
  /-- Completed frames: hand-offs made and `present` calls made (R232, R235). -/
  frames : Nat
  /-- The `NotFound` reports, oldest first (R240). -/
  log : List NotFoundReport
  /-- The model's own: how many random draws have been taken (R143). -/
  draws : Nat
  /-- The model's own input: host calls made and not yet taken, oldest first. -/
  hostCalls : List HostCall
  /-- The model's own output: what the finished host calls returned, oldest first. -/
  replies : List HostReply
  deriving DecidableEq, Repr

/-- `create(rows, cols)`, a zero-filled grid (R181). -/
def blankScreen (c : Config) : Framebuffer := List.replicate (c.rows * c.cols) false

/-- No key down (R40). -/
def noKeys : Keys := Vector.replicate 16 false

/-- The machine right after initialization with an empty image (R40, R260, R261). -/
def State.reset : State where
  config := Config.default
  mem := []
  v := Vector.replicate 16 0
  i := 0
  pc := 0x200
  stack := Vector.replicate 16 0
  sp := 0
  dt := 0
  st := 0
  key := noKeys
  hostKey := noKeys
  fb := blankScreen Config.default
  pub := blankScreen Config.default
  cycles := 0
  running := false
  life := .idle
  wait := none
  fault := none
  task := .notSpawned
  joining := []
  frames := 0
  log := []
  draws := 0
  hostCalls := []
  replies := []

end Sys2Proof.Machine
end

