-- ==== Sys2Proof/Machine/Ops.lean ====
section
/-!
DEFINITION. The named operations over memory and registers (00_scope.md R9, R10, 20_memory.md), and taking a
fatal fault (60_exceptions.md R222). There is no return from one (R227).
-/

namespace Sys2Proof.Machine

/-- The outcome of a cycle or an instruction. -/
abbrev Result := Host.Outcome State Fault Refusal

/-! ### Arithmetic (R9) -/

/-- `trunc_8(v) = v mod 2^8`. -/
def trunc8 (v : Nat) : Byte := BitVec.ofNat 8 v

/-- `trunc_16(v) = v mod 2^16`. -/
def trunc16 (v : Nat) : Half := BitVec.ofNat 16 v

/-- `zext_16` of a 12-bit address (R72). -/
def zext16 (nnn : Addr) : Half := nnn.zeroExtend 16

/-! ### Memory -/

/-- What a byte that nothing has written reads as (20_memory.md R54, R59): the default font at 0x050 to 0x09F,
0 elsewhere. -/
def memInitial (a : Nat) : Byte :=
  if Config.fontBase ≤ a ∧ a < Config.fontBase + 80 then
    Config.defaultFont.getD (a - Config.fontBase) 0
  else 0

/-- `MemRead(a, 1)` (R10, R52, R58). -/
def memRead : Memory → Nat → Byte
  | [], a => memInitial a
  | (k, c) :: m, a => if k = a then c else memRead m a

/-- `MemWrite(a, 1, b)` (R10, R52), keeping the canonical form. -/
def memWrite : Memory → Nat → Byte → Memory
  | [], a, b => if b = memInitial a then [] else [(a, b)]
  | (k, c) :: m, a, b =>
    if a < k then (if b = memInitial a then (k, c) :: m else (a, b) :: (k, c) :: m)
    else if a = k then (if b = memInitial a then m else (a, b) :: m)
    else (k, c) :: memWrite m a b

/-- Byte writes at consecutive increasing addresses from `a` (R52). -/
def memWriteBytes : Memory → Nat → List Byte → Memory
  | m, _, [] => m
  | m, a, b :: bs => memWriteBytes (memWrite m a b) (a + 1) bs

/-- `len` byte reads at consecutive increasing addresses from `a` (R52). -/
def memReadBytes (m : Memory) (a len : Nat) : List Byte := (List.range len).map fun k => memRead m (a + k)

/-- The canonical form from address `lo` on: addresses rise strictly, lie in range, and no entry equals what an
unlisted address reads as. -/
def Memory.wfFrom : Nat → Memory → Bool
  | _, [] => true
  | lo, (a, b) :: m =>
    decide (lo ≤ a) && decide (a ≤ Config.lastAddr) && !(b == memInitial a) && Memory.wfFrom (a + 1) m

/-- The canonical form of memory. -/
def Memory.wf (m : Memory) : Bool := Memory.wfFrom 0 m

/-! ### Registers -/

/-- `V[x]` (R10, R21). -/
def State.reg (s : State) (x : RegIdx) : Byte := s.v[x.val]

/-- `V[x] <- b` (R10, R21). -/
def State.setReg (s : State) (x : RegIdx) (b : Byte) : State := { s with v := s.v.set x.val b }

/-- `I <- a` (R23). -/
def State.setI (s : State) (a : Half) : State := { s with i := a }

/-- `PC <- a` (R24). -/
def State.setPc (s : State) (a : Half) : State := { s with pc := a }

/-- Sequential advance, `PC <- PC + 2` (R24, R79). -/
def State.advance (s : State) : State := s.setPc (s.pc + 2)

/-- A skip: `PC <- PC + 4` when it is taken, `PC <- PC + 2` otherwise (R79). -/
def State.skipIf (s : State) (taken : Bool) : State := if taken then s.setPc (s.pc + 4) else s.advance

/-- `MEM <- m`. -/
def State.setMem (s : State) (m : Memory) : State := { s with mem := m }

/-- `FB <- f`. -/
def State.setFb (s : State) (f : Framebuffer) : State := { s with fb := f }

/-- `KEY[k]` (R30). -/
def State.keyDown (s : State) (k : Fin 16) : Bool := s.key[k.val]

/-! ### Faults and results -/

/-- `OnFault(code)` (R222): `FAULT`, `RUNNING` and `LIFE` change and the execution task exits; every other field
keeps its value. -/
def State.takeFault (s : State) (code : FaultCode) : State :=
  { s with fault := some code, running := false, life := .stopped, task := .exited }

/-- `raise Fault(code)` (R10, R222): the machine goes on to the state the fault leaves. -/
def raise (code : FaultCode) (s : State) : Result := .next (s.takeFault code)

/-- Apply an update to the next state, if there is one. -/
def thenDo (r : Result) (f : State → State) : Result :=
  match r with
  | .next t => .next (f t)
  | .fault e => .fault e
  | .refused e => .refused e

end Sys2Proof.Machine
end

