-- ==== Sys2Proof/Machine/Operands.lean ====
section
/-!
DEFINITION. The operand forms (30_encoding.md R72, 43_index_memory.md R166): a register, an immediate, an address,
and the `I`-relative bytes of a transfer.
-/

namespace Sys2Proof.Machine

/-- The effective address of the `k`-th byte of a transfer, `I + k` without truncation (R166). -/
def State.effAddr (s : State) (k : Nat) : Nat := s.i.toNat + k

/-- The check made before the first access of a transfer of `len` bytes: its last address is in range; a transfer
of no byte has none (R53, R166, 44_display.md R186). -/
def State.transferInRange (s : State) (len : Nat) : Bool :=
  decide (len = 0 ∨ s.effAddr len - 1 ≤ Config.lastAddr)

/-- Run a transfer of `len` bytes if all of it is in range; raise `MemOutOfRange` with no byte moved otherwise
(R53, R166). -/
def withTransfer (len : Nat) (s : State) (body : State) : Result :=
  if s.transferInRange len then .next body else raise .memOutOfRange s

/-- `Vx` as an unsigned number: a digit (R162), a key number (R200), a coordinate (R186). -/
def State.regNat (s : State) (x : RegIdx) : Nat := (s.reg x).toNat

/-- `V0` to `Vx`, the registers of a block transfer (R164). -/
def State.regBlock (s : State) (x : RegIdx) : List Byte := s.v.toList.take (x.val + 1)

/-- Replace `V0` to `Vx` by the bytes of memory from `I` (R165). -/
def State.loadBlock (s : State) (x : RegIdx) : State :=
  { s with v := Vector.ofFn fun k => if k.val ≤ x.val then memRead s.mem (s.effAddr k.val) else s.v[k.val] }

end Sys2Proof.Machine
end

