-- ==== Sys2Proof/Machine/Flags.lean ====
section
/-!
DEFINITION. The flag register (10_state.md R22): every value `VF` receives as a side effect, and the order of the
result and the flag write (42_alu.md R144).
-/

namespace Sys2Proof.Machine

/-- `bool(c)`: 1 when `c` holds, 0 otherwise (R9). -/
def flagOf (c : Bool) : Byte := if c then 1 else 0

/-- Carry out of bit 7, from the sum before truncation (R133). -/
def carryOut (a b : Byte) : Byte := flagOf (decide (a.toNat + b.toNat > 0xFF))

/-- Not-borrow of `a - b` (R134, R135). -/
def notBorrow (a b : Byte) : Byte := flagOf (decide (a.toNat ≥ b.toNat))

/-- The bit a right shift moves out (R139). -/
def shiftedOutLow (a : Byte) : Byte := a &&& 0x01

/-- The bit a left shift moves out (R140). -/
def shiftedOutHigh (a : Byte) : Byte := (a &&& 0x80) >>> 7

/-- Write `Vx` first and `VF` last, then advance (R144). -/
def State.writeWithFlag (s : State) (x : RegIdx) (result flag : Byte) : State :=
  ((s.setReg x result).setReg vf flag).advance

/-- Write `Vx` and advance; no flag (R22). -/
def State.writeReg (s : State) (x : RegIdx) (result : Byte) : State := (s.setReg x result).advance

end Sys2Proof.Machine
end

