-- ==== Sys2Proof/Machine/Alu.lean ====
section
/-!
DEFINITION. Register loads, arithmetic, bitwise, shifts, random (42_alu.md). Operands are read before any write
(R144): every meaning computes from the state it is given.
-/

namespace Sys2Proof.Machine

/-- `6xkk` (R130). -/
def execLdImm (x : RegIdx) (kk : Byte) (s : State) : Result := .next (s.writeReg x kk)

/-- `8xy0` (R131). -/
def execLdReg (x y : RegIdx) (s : State) : Result := .next (s.writeReg x (s.reg y))

/-- `7xkk` (R132): no carry into `VF`. -/
def execAddImm (x : RegIdx) (kk : Byte) (s : State) : Result :=
  .next (s.writeReg x (trunc8 ((s.reg x).toNat + kk.toNat)))

/-- `8xy4` (R133). -/
def execAddReg (x y : RegIdx) (s : State) : Result :=
  .next (s.writeWithFlag x (trunc8 ((s.reg x).toNat + (s.reg y).toNat)) (carryOut (s.reg x) (s.reg y)))

/-- `8xy5` (R134): `Vx - Vy`. -/
def execSub (x y : RegIdx) (s : State) : Result :=
  .next (s.writeWithFlag x (trunc8 ((s.reg x).toNat + 256 - (s.reg y).toNat)) (notBorrow (s.reg x) (s.reg y)))

/-- `8xy7` (R135): `Vy - Vx`. -/
def execSubn (x y : RegIdx) (s : State) : Result :=
  .next (s.writeWithFlag x (trunc8 ((s.reg y).toNat + 256 - (s.reg x).toNat)) (notBorrow (s.reg y) (s.reg x)))

/-- `8xy1` (R136). -/
def execOr (x y : RegIdx) (s : State) : Result := .next (s.writeReg x (s.reg x ||| s.reg y))

/-- `8xy2` (R137). -/
def execAnd (x y : RegIdx) (s : State) : Result := .next (s.writeReg x (s.reg x &&& s.reg y))

/-- `8xy3` (R138). -/
def execXor (x y : RegIdx) (s : State) : Result := .next (s.writeReg x (s.reg x ^^^ s.reg y))

/-- `8xy6` (R139): shifts `Vx`; `Vy` is not read. -/
def execShr (x _y : RegIdx) (s : State) : Result :=
  .next (s.writeWithFlag x (s.reg x >>> 1) (shiftedOutLow (s.reg x)))

/-- `8xyE` (R140): shifts `Vx`; `Vy` is not read. -/
def execShl (x _y : RegIdx) (s : State) : Result :=
  .next (s.writeWithFlag x (trunc8 (2 * (s.reg x).toNat)) (shiftedOutHigh (s.reg x)))

/-- `Cxkk` (R141): one fresh draw (R143, log entry 1), masked by `kk`. -/
def execRnd (x : RegIdx) (kk : Byte) (s : State) : Result :=
  .next (({ s with draws := s.draws + 1 } : State).writeReg x (Config.draw8 s.draws &&& kk))

end Sys2Proof.Machine
end

