-- ==== Sys2Proof/Machine/Control.lean ====
section
/-!
DEFINITION. Control flow (41_control.md): idle, jumps, call, return, skips.
-/

namespace Sys2Proof.Machine

/-- `0000` (R100): no state change, `PC` is not advanced. -/
def execIdle (s : State) : Result := .next s

/-- `1nnn` (R101). -/
def execJp (nnn : Addr) (s : State) : Result := .next (s.setPc (zext16 nnn))

/-- `Bnnn` (R108): `V0 + nnn`, whatever the `x` nibble. -/
def execJpV0 (nnn : Addr) (s : State) : Result := .next (s.setPc (trunc16 (s.regNat v0 + nnn.toNat)))

/-- `2nnn` (R102): push the address of this call; `StackOverflow` when 16 entries are in use. -/
def execCall (nnn : Addr) (s : State) : Result :=
  if h : s.sp.val < 16 then
    .next { s with stack := s.stack.set s.sp.val s.pc, sp := ⟨s.sp.val + 1, by omega⟩, pc := zext16 nnn }
  else raise .stackOverflow s

/-- `00EE` (R103): pop into `PC`, plus 2; the popped entry is not cleared; `StackUnderflow` when no entry is in
use. -/
def execRet (s : State) : Result :=
  if h : 0 < s.sp.val then
    .next { s with sp := ⟨s.sp.val - 1, by omega⟩, pc := s.stack[s.sp.val - 1] + 2 }
  else raise .stackUnderflow s

/-- `3xkk` (R104). -/
def execSeImm (x : RegIdx) (kk : Byte) (s : State) : Result := .next (s.skipIf (decide (s.reg x = kk)))

/-- `4xkk` (R105). -/
def execSneImm (x : RegIdx) (kk : Byte) (s : State) : Result := .next (s.skipIf (decide (s.reg x ≠ kk)))

/-- `5xy0` (R106). -/
def execSeReg (x y : RegIdx) (s : State) : Result := .next (s.skipIf (decide (s.reg x = s.reg y)))

/-- `9xy0` (R107). -/
def execSneReg (x y : RegIdx) (s : State) : Result := .next (s.skipIf (decide (s.reg x ≠ s.reg y)))

end Sys2Proof.Machine
end

