-- ==== Sys2Proof/Machine/Framebuffer.lean ====
section
/-!
DEFINITION. The framebuffer's primitives (44_display.md R180 to R185).
-/

namespace Sys2Proof.Machine

/-- The linear index of a cell, `r * COLS + c` (R180). -/
def cellIndex (c : Config) (row col : Nat) : Nat := row * c.cols + col

/-- `FB[r][c]` of a cell that exists (R31). -/
def pixel (c : Config) (f : Framebuffer) (row col : Nat) : Bool := f.getD (cellIndex c row col) false

/-- `pixel_at(col, row)` (R184): a cell, or none where the coordinates are out of range, which is a programming
error that no instruction reaches. -/
def pixelAt (c : Config) (f : Framebuffer) (col row : Nat) : Option Bool :=
  if col < c.cols ∧ row < c.rows then some (pixel c f row col) else none

/-- `Clear(b)` (R181). -/
def clearScreen (c : Config) (b : Bool) : Framebuffer := List.replicate (c.rows * c.cols) b

/-- Bit `dx` of a sprite row, counted from the left: bit 7 is the leftmost pixel (R182). -/
def spriteBit (row : Byte) (dx : Nat) : Bool := row.getLsbD (7 - dx)

/-- XOR one sprite bit into one cell; the flag grows when the cell goes from set to unset (R182). -/
def xorCell (c : Config) (row col : Nat) (bit : Bool) (acc : Framebuffer × Bool) : Framebuffer × Bool :=
  let old := pixel c acc.1 row col
  (acc.1.set (cellIndex c row col) (old ^^ bit), acc.2 || (old && bit))

/-- The bits `dx, dx + 1, ...` of one sprite row, as many as `n` (R182). -/
def xorBits (c : Config) (col row : Nat) (sprite : Byte) : Nat → Nat → Framebuffer × Bool → Framebuffer × Bool
  | _, 0, acc => acc
  | dx, n + 1, acc =>
    xorBits c col row sprite (dx + 1) n
      (xorCell c (row % c.rows) ((col + dx) % c.cols) (spriteBit sprite dx) acc)

/-- The rows of a sprite from row `row` down; start and extent wrap (R182). -/
def xorRows (c : Config) (col : Nat) : Nat → List Byte → Framebuffer × Bool → Framebuffer × Bool
  | _, [], acc => acc
  | row, b :: bs, acc => xorRows c col (row + 1) bs (xorBits c col row b 0 8 acc)

/-- `xor_sprite(col, row, height, sprite_bytes)` (R182): the new pixels and the collision flag. -/
def xorSprite (c : Config) (col row : Nat) (sprite : List Byte) (f : Framebuffer) : Framebuffer × Bool :=
  xorRows c col row sprite (f, false)

/-- One channel of the packed view, `pixel_value * scale` (R185). -/
def channel (p : Bool) (scale : Byte) : Byte := if p then scale else 0

/-- `to_packed_color` of a screen (R185): three bytes a pixel, row-major. -/
def packedColor (c : Config) (sr sg sb : Byte) (f : Framebuffer) : List Byte :=
  (List.range c.rows).flatMap fun r => (List.range c.cols).flatMap fun k =>
    [channel (pixel c f r k) sr, channel (pixel c f r k) sg, channel (pixel c f r k) sb]

end Sys2Proof.Machine
end

