-- ==== Sys2Proof/Machine/Display.lean ====
section
/-!
DEFINITION. The display instructions (44_display.md R186, R187).
-/

namespace Sys2Proof.Machine

/-- The sprite of `Dxyn`: `n` bytes from `I` (R186). -/
def State.sprite (s : State) (n : Nat) : List Byte := memReadBytes s.mem (s.effAddr 0) n

/-- `Dxyn` (R186): column from `Vx`, row from `Vy`, both read before `VF` is written. -/
def execDrw (x y : RegIdx) (n : Fin 16) (s : State) : Result :=
  let drawn := xorSprite s.config (s.regNat x) (s.regNat y) (s.sprite n.val) s.fb
  withTransfer n.val s (((s.setFb drawn.1).setReg vf (flagOf drawn.2)).advance)

/-- `00E0` (R187). -/
def execCls (s : State) : Result := .next (s.setFb (clearScreen s.config false)).advance

end Sys2Proof.Machine
end

