-- ==== Sys2Proof/Machine/Index.lean ====
section
/-!
DEFINITION. Index register and memory transfers (43_index_memory.md). No transfer changes `I` (R166).
-/

namespace Sys2Proof.Machine

/-- `Annn` (R160). -/
def execLdI (nnn : Addr) (s : State) : Result := .next (s.setI (zext16 nnn)).advance

/-- `Fx1E` (R161): 16-bit wrap, no flag. -/
def execAddI (x : RegIdx) (s : State) : Result := .next (s.setI (trunc16 (s.i.toNat + s.regNat x))).advance

/-- `Fx29` (R162): the digit is the whole of `Vx`. -/
def execLdF (x : RegIdx) (s : State) : Result :=
  .next (s.setI (trunc16 (Config.fontBase + 5 * s.regNat x))).advance

/-- The hundreds, tens and ones of a byte (R163). -/
def bcdDigits (b : Byte) : List Byte :=
  [trunc8 (b.toNat / 100), trunc8 (b.toNat / 10 % 10), trunc8 (b.toNat % 10)]

/-- `Fx33` (R163). -/
def execLdB (x : RegIdx) (s : State) : Result :=
  withTransfer 3 s (s.setMem (memWriteBytes s.mem (s.effAddr 0) (bcdDigits (s.reg x)))).advance

/-- `Fx55` (R164). -/
def execStoreRegs (x : RegIdx) (s : State) : Result :=
  withTransfer (x.val + 1) s (s.setMem (memWriteBytes s.mem (s.effAddr 0) (s.regBlock x))).advance

/-- `Fx65` (R165). -/
def execLoadRegs (x : RegIdx) (s : State) : Result :=
  withTransfer (x.val + 1) s (s.loadBlock x).advance

end Sys2Proof.Machine
end

