-- ==== Sys2Proof/Machine/Keypad.lean ====
section
/-!
DEFINITION. Key queries, timer access and the key wait (45_timers_keypad.md R200 to R206).
-/

namespace Sys2Proof.Machine

/-- A key query: `KeyIndexOutOfRange` when `Vx > 0xF`, else a skip on the key's latch being `down`
(R200, R201). -/
def keyQuery (x : RegIdx) (down : Bool) (s : State) : Result :=
  if h : s.regNat x ≤ 0xF then .next (s.skipIf (s.keyDown ⟨s.regNat x, by omega⟩ == down))
  else raise .keyIndexOutOfRange s

/-- `Ex9E` (R200). -/
def execSkp (x : RegIdx) (s : State) : Result := keyQuery x true s

/-- `ExA1` (R201). -/
def execSknp (x : RegIdx) (s : State) : Result := keyQuery x false s

/-- `Fx07` (R202). -/
def execLdVxDt (x : RegIdx) (s : State) : Result := .next (s.writeReg x s.dt)

/-- `Fx15` (R203). -/
def execLdDtVx (x : RegIdx) (s : State) : Result := .next ({ s with dt := s.reg x } : State).advance

/-- `Fx18` (R204). -/
def execLdStVx (x : RegIdx) (s : State) : Result := .next ({ s with st := s.reg x } : State).advance

/-- `Fx0A`, entry (R205): the wait starts with the keys down now; `PC` and `Vx` do not change. -/
def execLdVxK (x : RegIdx) (s : State) : Result := .next { s with wait := some ⟨x, s.key⟩ }

/-- The lowest key that is down in `now` and was up in `ref` (R206). -/
def newKey (now ref : Keys) : Option (Fin 16) := (List.finRange 16).find? fun k => now[k.val] && !ref[k.val]

/-- `KeyWaitCycle()` (R206). -/
def keyWaitCycle (w : KeyWait) (s : State) : State :=
  match newKey s.key w.ref with
  | some k => (({ s with wait := none } : State).setReg w.x (trunc8 k.val)).advance
  | none => { s with wait := some ⟨w.x, s.key⟩ }

end Sys2Proof.Machine
end

