-- ==== Sys2Proof/Machine/Scheduler.lean ====
section
/-!
DEFINITION. The core cycle (30_encoding.md R78) and the execution task's frames (60_exceptions.md R230 to R235).
-/

namespace Sys2Proof.Machine

/-! ### One core cycle (R78) -/

/-- The word at `PC`, big-endian (R57, R78). -/
def State.fetchWord (s : State) : Half :=
  wordOfBytes (memRead s.mem s.pc.toNat) (memRead s.mem (s.pc.toNat + 1))

/-- `CYCLES <- CYCLES + 1`, and one more cycle of the frame is done, at the end of a cycle that did not fault
(R33, R78). A fault has ended the task, so its cycle is not counted (R222). -/
def State.countCycle (s : State) : State :=
  match s.task with
  | .live slot => { s with cycles := s.cycles + 1, task := .live (slot + 1) }
  | _ => s

/-- `report NotFound(op, PC)` (R221, R240). -/
def State.report (s : State) (op : Half) : State := { s with log := s.log ++ [⟨op, s.pc⟩] }

/-- A not-found word, under each policy (R221). -/
def notFound (op : Half) (s : State) : State :=
  match s.config.unknownOpcode with
  | .stay => s.report op
  | .advance => (s.report op).advance
  | .halt => (s.report op).takeFault .unknownOpcode

/-- Fetch, decode and execute (R78, R225). -/
def fetchExecute (s : State) : Result :=
  if s.pc.toNat > Config.lastFetch then raise .pcOutOfRange s
  else
    match decodeWord s.fetchWord with
    | .ok i => exec i s
    | .error _ => .next (notFound s.fetchWord s)

/-- `CoreCycle()` (R78): a pending key wait takes the place of fetch and execute. -/
def coreCycle (s : State) : Result :=
  match s.wait with
  | some w => .next (keyWaitCycle w s).countCycle
  | none => thenDo (fetchExecute s) State.countCycle

/-! ### The end of a frame -/

/-- A timer's countdown, never below 0 (R28, R231). -/
def tick (t : Byte) : Byte := if t = 0 then 0 else trunc8 (t.toNat - 1)

/-- `TimerTick()` (R231). -/
def State.timerTick (s : State) : State := { s with dt := tick s.dt, st := tick s.st }

/-- `HandOff()` (R232): both copies in one step under the lock; the `present` call is counted in `frames`, and
what it shows is `State.presentation`. -/
def State.handOff (s : State) : State := { s with pub := s.fb, key := s.hostKey, frames := s.frames + 1 }

/-- The end of a frame: tick, then hand off, then the next frame (R230). Its sleep is wall-clock time, which the
model leaves out (R234). -/
def State.endFrame (s : State) : State := { s.timerTick.handOff with task := .live 0 }

/-! ### The execution task (R230) -/

/-- One move of the execution task with `slot` cycles of the frame done: exit at a frame start that sees
`RUNNING = false` (R233), else the frame's next cycle, or its end when all its cycles are done. -/
def taskStep (slot : Nat) (s : State) : Result :=
  if slot = 0 ∧ s.running = false then .next { s with task := .exited }
  else if slot < s.config.cyclesPerFrame then coreCycle s
  else .next s.endFrame

/-- `SOUND_ON` (R236). -/
def State.soundOn (s : State) : Bool := s.st != 0

/-- The arguments of the last `present` call: the packed view of `PUB` and its height (R185, R232, R244). -/
def State.presentation (s : State) : List Byte × Nat :=
  (packedColor s.config Config.scaleR Config.scaleG Config.scaleB s.pub, s.config.rows)

end Sys2Proof.Machine
end

