-- ==== Sys2Proof/Machine/Lifecycle.lean ====
section
/-!
DEFINITION. Initialization, program load and the host's operations (70_reset_and_hazards.md R260 to R266,
60_exceptions.md R229, R243 to R246), and one move of the whole machine.
-/

namespace Sys2Proof.Machine

/-! ### Creating a machine (R260, R261) -/

/-- What a machine is created from, with what the host's environment decides. -/
structure CreateRequest where
  /-- The parameters (R6, R7). -/
  config : Config
  /-- Whether the state can be allocated (R260). -/
  allocated : Bool
  /-- The program image, or none when it cannot be read (R261). -/
  image : Option (List Byte)
  deriving DecidableEq, Repr

/-- Every field at its zero value (R40, R260), memory with the font and nothing else. -/
def zeroState (c : Config) : State :=
  { State.reset with
    config := c
    mem := memWriteBytes [] Config.fontBase c.font.toList
    fb := blankScreen c
    pub := blankScreen c }

/-- `LoadProgram(image)` (R261): `IoError` for an unreadable image and for one longer than 3584 bytes. -/
def loadProgram (image : Option (List Byte)) (s : State) : Except HostError State :=
  match image with
  | none => .error .ioError
  | some bytes =>
    if bytes.length > Config.maxImage then .error .ioError
    else .ok (s.setMem (memWriteBytes s.mem Config.programBase bytes))

/-- `Create(image)` (R260): an idle machine, or the error for which none is created. -/
def create (r : CreateRequest) : Except HostError State :=
  if r.allocated then loadProgram r.image (zeroState r.config) else .error .memoryError

/-! ### Operations on a machine (R262, R264 to R266) -/

/-- A host call returns. -/
def State.replyWith (s : State) (r : HostReply) : State := { s with replies := s.replies ++ [r] }

/-- `start()` (R265): only from `Idle`; on a spawn failure nothing changes and the reply is `ThreadError`. -/
def hostStart (spawned : Bool) (s : State) : State :=
  if s.life = .idle then
    if spawned then ({ s with running := true, life := .running, task := .live 0 } : State).replyWith .done
    else ({ s with running := false, life := .idle } : State).replyWith (.error .threadError)
  else s.replyWith (.error .invalidState)

/-- `stop()` (R266): only while `Running`; clears `RUNNING` and waits for the task's exit. -/
def hostStop (joined : Bool) (s : State) : State :=
  if s.life = .running then { s with running := false, joining := s.joining ++ [joined] }
  else s.replyWith (.error .invalidState)

/-- A waiting `stop()` returns after the task's exit (R266): `LIFE` becomes `Stopped` when the join succeeds, and
the reply is `ThreadError` when it fails. -/
def joinReturns (joined : Bool) (s : State) : State :=
  if joined then ({ s with life := .stopped } : State).replyWith .done
  else s.replyWith (.error .threadError)

/-- A request to initialize this machine again (R262): `InvalidState`, no change; there is no re-initialization
of a machine in any lifecycle state (R260; log entry 7). -/
def hostReinit (s : State) : State := s.replyWith (.error .invalidState)

/-- The keypad bridge's write (R245). -/
def hostWriteKeys (keys : Keys) (s : State) : State := ({ s with hostKey := keys } : State).replyWith .done

/-- Take one host call (R246). -/
def takeHostCall (c : HostCall) (s : State) : State :=
  match c with
  | .start spawned => hostStart spawned s
  | .stop joined => hostStop joined s
  | .reinit => hostReinit s
  | .writeKeys keys => hostWriteKeys keys s

/-! ### One move of the machine -/

/-- The move of the machine when no host call is pending: a waiting `stop()` returns once the task has exited;
otherwise the execution task moves; without one the machine is stuck. -/
def machineMove (s : State) : Result :=
  match s.task with
  | .live slot => taskStep slot s
  | .notSpawned => .fault .notStarted
  | .exited =>
    match s.joining with
    | joined :: rest => .next (joinReturns joined { s with joining := rest })
    | [] => .fault (.taskExited s.fault)

/-- One move of the machine: a pending host call is taken first (log entry 3). -/
def machineStep (s : State) : Result :=
  match s.hostCalls with
  | c :: rest => .next (takeHostCall c { s with hostCalls := rest })
  | [] => machineMove s

/-! ### Placing an instruction -/

/-- Where the next fetch reads: `PC`, or the entry point when `PC` is beyond the last fetchable address. -/
def State.fetchAddr (s : State) : Half := if s.pc.toNat ≤ Config.lastFetch then s.pc else 0x200

/-- `s` with `op` where the next cycle fetches, and with the execution task at a frame start of a started machine,
no key wait and no pending host call, so that the very next step runs it (log entry 10). -/
def placeWord (s : State) (op : Half) : State :=
  { s with
    mem := memWriteBytes s.mem s.fetchAddr.toNat (bytesOfWord op)
    pc := s.fetchAddr
    running := true
    life := .running
    task := .live 0
    wait := none
    hostCalls := [] }

end Sys2Proof.Machine
end

