-- ==== Sys2Proof/Safety.lean ====
section
/-!
DEFINITION. The terms claims are stated in: what a rule's tables say of each instruction, what stays unchanged,
when the next step is a core cycle, what a safe run is, and the invariants of the machine.
-/

namespace Sys2Proof.Machine

/-! ### Encodings and effects, as the spec's tables give them -/

/-- The word `w` is the instruction `i` (R74). -/
def EncodedBy (i : Instr) (w : Nat) : Prop := decodeWord (BitVec.ofNat 16 w) = .ok i

/-- Every byte of memory reads as before. -/
def MemUnchanged (s t : State) : Prop := ∀ a, memRead t.mem a = memRead s.mem a

/-- Every byte of memory outside the `len` bytes from `lo` reads as before. -/
def MemUnchangedOutside (s t : State) (lo len : Nat) : Prop :=
  ∀ a, a < lo ∨ lo + len ≤ a → memRead t.mem a = memRead s.mem a

/-- What a fatal fault leaves (R222, R226): the state before the faulting instruction but for `FAULT`, `RUNNING`,
`LIFE` and the execution task, which has exited. -/
def State.faulted (s : State) (code : FaultCode) : State :=
  { s with fault := some code, running := false, life := .stopped, task := .exited }

/-- The fault an instruction raises, by the causes of R223: the one check each instruction has (R225). -/
def faultOf (i : Instr) (s : State) : Option FaultCode :=
  match i with
  | .call _ => if s.sp.val = 16 then some .stackOverflow else none
  | .ret => if s.sp.val = 0 then some .stackUnderflow else none
  | .drw _ _ n => if 0 < n.val ∧ s.i.toNat + n.val - 1 > 0xFFF then some .memOutOfRange else none
  | .ldB _ => if s.i.toNat + 2 > 0xFFF then some .memOutOfRange else none
  | .storeRegs x | .loadRegs x => if s.i.toNat + x.val > 0xFFF then some .memOutOfRange else none
  | .skp x | .sknp x => if (s.reg x).toNat > 0xF then some .keyIndexOutOfRange else none
  | .idle | .cls | .jp _ | .seImm _ _ | .sneImm _ _ | .seReg _ _ | .ldImm _ _ | .addImm _ _ | .ldReg _ _
  | .orReg _ _ | .andReg _ _ | .xorReg _ _ | .addReg _ _ | .sub _ _ | .shr _ _ | .subn _ _ | .shl _ _
  | .sneReg _ _ | .ldI _ | .jpV0 _ | .rnd _ _ | .ldVxDt _ | .ldVxK _ | .ldDtVx _ | .ldStVx _ | .addI _
  | .ldF _ => none

/-- A skip's `PC` (R79). -/
def skipPc (s : State) (taken : Prop) [Decidable taken] : Half := if taken then s.pc + 4 else s.pc + 2

/-- `PC` after an instruction that raises no fault (R79). -/
def pcAfter (i : Instr) (s : State) : Half :=
  match i with
  | .idle | .ldVxK _ => s.pc
  | .jp nnn | .call nnn => BitVec.ofNat 16 nnn.toNat
  | .jpV0 nnn => BitVec.ofNat 16 ((s.reg 0).toNat + nnn.toNat)
  | .ret => s.stack.toList.getD (s.sp.val - 1) 0 + 2
  | .seImm x kk => skipPc s (s.reg x = kk)
  | .sneImm x kk => skipPc s (s.reg x ≠ kk)
  | .seReg x y => skipPc s (s.reg x = s.reg y)
  | .sneReg x y => skipPc s (s.reg x ≠ s.reg y)
  | .skp x => skipPc s (s.key.toList.getD (s.reg x).toNat false = true)
  | .sknp x => skipPc s (s.key.toList.getD (s.reg x).toNat false = false)
  | .cls | .ldImm _ _ | .addImm _ _ | .ldReg _ _ | .orReg _ _ | .andReg _ _ | .xorReg _ _ | .addReg _ _
  | .sub _ _ | .shr _ _ | .subn _ _ | .shl _ _ | .ldI _ | .rnd _ _ | .drw _ _ _ | .ldVxDt _ | .ldDtVx _
  | .ldStVx _ | .addI _ | .ldF _ | .ldB _ | .storeRegs _ | .loadRegs _ => s.pc + 2

/-- The instructions that write `VF` as a side effect (R22). -/
def writesFlag (i : Instr) : Bool :=
  match i with
  | .addReg _ _ | .sub _ _ | .subn _ _ | .shr _ _ | .shl _ _ | .drw _ _ _ => true
  | .idle | .cls | .ret | .jp _ | .call _ | .seImm _ _ | .sneImm _ _ | .seReg _ _ | .ldImm _ _ | .addImm _ _
  | .ldReg _ _ | .orReg _ _ | .andReg _ _ | .xorReg _ _ | .sneReg _ _ | .ldI _ | .jpV0 _ | .rnd _ _ | .skp _
  | .sknp _ | .ldVxDt _ | .ldVxK _ | .ldDtVx _ | .ldStVx _ | .addI _ | .ldF _ | .ldB _ | .storeRegs _
  | .loadRegs _ => false

/-- Whether `r` is a destination register of the instruction (R21): named as `x`, or in the block of `Fx65`. The
destination of `Fx0A` is written by the key wait, not by the instruction (R205, R206). -/
def isDest (i : Instr) (r : RegIdx) : Bool :=
  match i with
  | .ldImm x _ | .addImm x _ | .ldReg x _ | .orReg x _ | .andReg x _ | .xorReg x _ | .addReg x _ | .sub x _
  | .shr x _ | .subn x _ | .shl x _ | .rnd x _ | .ldVxDt x => decide (r = x)
  | .loadRegs x => decide (r.val ≤ x.val)
  | .idle | .cls | .ret | .jp _ | .call _ | .seImm _ _ | .sneImm _ _ | .seReg _ _ | .sneReg _ _ | .ldI _
  | .jpV0 _ | .drw _ _ _ | .skp _ | .sknp _ | .ldVxK _ | .ldDtVx _ | .ldStVx _ | .addI _ | .ldF _ | .ldB _
  | .storeRegs _ => false

/-! ### The display -/

/-- How many bits of a sprite that are 1 land on the cell of row `r`, column `k` (R182). -/
def spriteHits (c : Config) (col row : Nat) (sprite : List Byte) (r k : Nat) : Nat :=
  ((List.range sprite.length).map fun dy => (List.range 8).countP fun dx =>
    decide ((row + dy) % c.rows = r ∧ (col + dx) % c.cols = k ∧
      (sprite.getD dy 0).toNat / 2 ^ (7 - dx) % 2 = 1)).sum

/-- Some cell visited with sprite bit 1 holds `was` in `f` (R183, R188). -/
def spriteMeets (c : Config) (col row : Nat) (sprite : List Byte) (f : Framebuffer) (was : Bool) : Prop :=
  ∃ dy dx, dy < sprite.length ∧ dx < 8 ∧ (sprite.getD dy 0).toNat / 2 ^ (7 - dx) % 2 = 1 ∧
    pixel c f ((row + dy) % c.rows) ((col + dx) % c.cols) = was

/-! ### When the next step is a core cycle -/

/-- The next step is a core cycle, the frame's cycle number `slot` (R230, R233). -/
structure CycleNext (s : State) (slot : Nat) : Prop where
  noCall : s.hostCalls = []
  live : s.task = .live slot
  inFrame : slot < s.config.cyclesPerFrame
  polled : slot = 0 → s.running = true

/-- The next step is the end of a frame (R230). -/
structure FrameEndNext (s : State) (slot : Nat) : Prop where
  noCall : s.hostCalls = []
  live : s.task = .live slot
  allRun : s.config.cyclesPerFrame ≤ slot
  polled : slot = 0 → s.running = true

/-- The next step is a core cycle that fetches: no key wait, and `PC` at most 0xFFE (R78). -/
structure FetchNext (s : State) (slot : Nat) : Prop extends CycleNext s slot where
  noWait : s.wait = none
  inRange : s.pc.toNat ≤ 0xFFE

/-- The two bytes at `PC` (R57). -/
def fetchedBytes (s : State) : List Byte := [memRead s.mem s.pc.toNat, memRead s.mem (s.pc.toNat + 1)]

/-- A cycle that does not fault is counted (R33, R78). -/
def State.counted (s : State) (slot : Nat) : State :=
  { s with cycles := s.cycles + 1, task := .live (slot + 1) }

/-! ### Safe runs and invariants -/

/-- 93_implementation_defined.md: a run a claim may take as its premise records no fault and reports no not-found
word. -/
structure SafeRun (s : State) : Prop where
  noFault : s.fault = none
  noReport : s.log = []

/-- Memory has its canonical form (R50, R59) and both screens have ROWS x COLS cells (R31, R32). -/
structure DataOk (s : State) : Prop where
  mem : s.mem.wf = true
  fb : s.fb.length = s.config.rows * s.config.cols
  pub : s.pub.length = s.config.rows * s.config.cols

/-- `RUNNING`, `LIFE`, `FAULT` and the execution task agree (R222, R233, R264 to R266). -/
structure LifecycleOk (s : State) : Prop where
  idle : s.life = .idle ↔ s.task = .notSpawned
  live : ∀ slot, s.task = .live slot → s.life = .running ∧ s.fault = none
  running : s.running = true → ∃ slot, s.task = .live slot
  fault : s.fault ≠ none → s.task = .exited ∧ s.life = .stopped
  joining : s.joining ≠ [] → s.life ≠ .idle

/-- R235: while no fault has occurred, `CYCLES` is the completed frames times `CYCLES_PER_FRAME`, plus the cycles
of the frame in progress. -/
def FrameCountOk (s : State) : Prop :=
  match s.task with
  | .notSpawned => s.cycles = 0 ∧ s.frames = 0
  | .live slot => slot ≤ s.config.cyclesPerFrame ∧ s.cycles = s.frames * s.config.cyclesPerFrame + slot
  | .exited => s.fault = none → s.cycles = s.frames * s.config.cyclesPerFrame

/-- R24: `PC` never exceeds 0x10FE, what `STACK` holds is the address of a fetched call, and a pending key wait
stands at the address of a fetched `Fx0A`. -/
structure PcOk (s : State) : Prop where
  pc : s.pc.toNat ≤ 0x10FE
  stack : ∀ k (h : k < 16), (s.stack[k]).toNat ≤ 0xFFE
  wait : s.wait ≠ none → s.pc.toNat ≤ 0xFFE

end Sys2Proof.Machine
end

