-- ==== Sys2Proof/Certificates/Slice0/Obligations.lean ====
section
/-!
DEFINITION. The statements for the provers: what the numbered rules of spec/ say the machine does. Where a
statement names a field that the model adds (`task` and `joining`, log entry 4; `frames` and `log`, log entry 5;
`draws`, log entry 1; `hostCalls` and `replies`, log entry 3), that clause is the model's own.
-/

open Sys2Proof Sys2Proof.Machine

/-! ### Encoding (30_encoding.md) -/

/-- R71, R74: decoding the bytes of any instruction, whatever bytes follow, gives it back with every operand. -/
def Obligations.EncodeThenDecodeReturnsInstruction : Prop :=
  ∀ (i : Instr) (rest : List Byte), decode (encodeBytes i ++ rest) = .ok (i, rest)

/-- R71, R74: a word that decodes is the encoding of what it decodes to, so every word has one meaning. -/
def Obligations.DecodeThenEncodeReturnsWord : Prop :=
  ∀ (op : Half) (i : Instr), decodeWord op = .ok i → encode i = op

/-- R75: the rows of the table are pairwise disjoint: at most one row selects any word. -/
def Obligations.TableRowsAreDisjoint : Prop :=
  ∀ (op : Half) (r₁ r₂ : DecodeRow), r₁ ∈ decodeTable → r₂ ∈ decodeTable →
    op &&& r₁.mask = r₁.pattern → op &&& r₂.mask = r₂.pattern → r₁.mnemonic = r₂.mnemonic

/-- R76: the not-found words are exactly the listed ones. -/
def Obligations.NotFoundWordsAreTheListedOnes : Prop :=
  ∀ op : Half, (∃ e, decodeWord op = .error e) ↔
    (op.toNat < 0x1000 ∧ op.toNat ≠ 0x000 ∧ op.toNat ≠ 0x0E0 ∧ op.toNat ≠ 0x0EE) ∨
    (op.toNat / 0x1000 = 0x5 ∧ op.toNat % 0x10 ≠ 0) ∨
    (op.toNat / 0x1000 = 0x8 ∧ op.toNat % 0x10 ∈ [0x8, 0x9, 0xA, 0xB, 0xC, 0xD, 0xF]) ∨
    (op.toNat / 0x1000 = 0x9 ∧ op.toNat % 0x10 ≠ 0) ∨
    (op.toNat / 0x1000 = 0xE ∧ op.toNat % 0x100 ∉ [0x9E, 0xA1]) ∨
    (op.toNat / 0x1000 = 0xF ∧
      op.toNat % 0x100 ∉ [0x07, 0x0A, 0x15, 0x18, 0x1E, 0x29, 0x33, 0x55, 0x65])

/-- R74: one word of each format, written out from its pattern, and two words that no row selects. -/
def Obligations.WrittenOutWordsDecode : Prop :=
  decode [0x00, 0xEE] = .ok (.ret, []) ∧
  decode [0x2A, 0xBC] = .ok (.call 0xABC, []) ∧
  decode [0x7B, 0x4D] = .ok (.addImm 0xB 0x4D, []) ∧
  decode [0x8C, 0x37] = .ok (.subn 0xC 0x3, []) ∧
  decode [0xD9, 0x5F] = .ok (.drw 0x9 0x5 0xF, []) ∧
  decode [0xE6, 0xA1] = .ok (.sknp 0x6, []) ∧
  decode [0xFE, 0x33] = .ok (.ldB 0xE, []) ∧
  decode [0x51, 0x21] = .error .unknownSkipEqual ∧
  decode [0x01, 0x23] = .error .unknownSystem

/-- R71: the bit positions of the five fields. -/
def Obligations.FieldsAreTheirBitSlices : Prop :=
  ∀ op : Half,
    (fieldNnn op).toNat = op.toNat % 0x1000 ∧
    (fieldX op).val = op.toNat / 0x100 % 0x10 ∧
    (fieldY op).val = op.toNat / 0x10 % 0x10 ∧
    (fieldKk op).toNat = op.toNat % 0x100 ∧
    (fieldN op).val = op.toNat % 0x10

/-! ### The core cycle (30_encoding.md R78, 60_exceptions.md) -/

/-- R57, R78: when the two bytes at `PC` decode to `i`, the step is `exec i`, and then the cycle is counted, unless
`i` faulted, which ends the task. -/
def Obligations.StepRunsDecodedInstruction : Prop :=
  ∀ (s : State) (slot : Nat) (i : Instr), FetchNext s slot → decode (fetchedBytes s) = .ok (i, []) →
    ∃ t, exec i s = .next t ∧
      ((t.task = .live slot ∧ step s = .next { t with cycles := s.cycles + 1, task := .live (slot + 1) }) ∨
       (t.task = .exited ∧ t.fault ≠ none ∧ step s = .next t))

/-- R78, R223: a fetch with `PC` above 0xFFE faults with `PcOutOfRange`, whatever memory holds. -/
def Obligations.FetchBeyondMemoryFaults : Prop :=
  ∀ (s : State) (slot : Nat), CycleNext s slot → s.wait = none → 0xFFE < s.pc.toNat →
    step s = .next (s.faulted .pcOutOfRange)

/-- R221: a not-found word is reported; `PC` stays, advances by 2, or the cycle faults, by the policy. -/
def Obligations.NotFoundWordFollowsPolicy : Prop :=
  ∀ (s : State) (slot : Nat) (e : DecodeError) (op : Half), FetchNext s slot →
    decode (fetchedBytes s) = .error e →
    op.toNat = (memRead s.mem s.pc.toNat).toNat * 256 + (memRead s.mem (s.pc.toNat + 1)).toNat →
    ∃ r : State, r = { s with log := s.log ++ [⟨op, s.pc⟩] } ∧
      (s.config.unknownOpcode = .stay → step s = .next (r.counted slot)) ∧
      (s.config.unknownOpcode = .advance → step s = .next { r.counted slot with pc := s.pc + 2 }) ∧
      (s.config.unknownOpcode = .halt → step s = .next (r.faulted .unknownOpcode))

/-- R206, R242: a cycle while a key wait is pending completes it with the lowest newly pressed key, or remembers the
keys down now; whatever is in memory is not fetched. The frame's end comes while the wait is pending as at any other
time. -/
def Obligations.KeyWaitCycleTakesLowestNewKey : Prop :=
  ∀ (s : State) (w : KeyWait), s.wait = some w →
    (∀ slot, CycleNext s slot →
      (∀ k : Fin 16, s.key[k] = true → w.ref[k] = false →
        (∀ j : Fin 16, j < k → ¬(s.key[j] = true ∧ w.ref[j] = false)) →
        ∃ t, step s = .next t ∧ (t.reg w.x).toNat = k.val ∧ (∀ r, r ≠ w.x → t.reg r = s.reg r) ∧
          t = { s.counted slot with v := t.v, wait := none, pc := s.pc + 2 }) ∧
      ((∀ k : Fin 16, ¬(s.key[k] = true ∧ w.ref[k] = false)) →
        step s = .next { s.counted slot with wait := some ⟨w.x, s.key⟩ })) ∧
    (∀ slot, FrameEndNext s slot →
      ∃ t, step s = .next t ∧ t.wait = some w ∧ t.pc = s.pc ∧ t.dt.toNat = s.dt.toNat - 1 ∧
        t.st.toNat = s.st.toNat - 1 ∧ t.pub = s.fb ∧ t.key = s.hostKey)

/-- R33: a cycle that does not fault adds 1 to `CYCLES`, and a cycle that faults adds nothing. -/
def Obligations.EveryCycleCountsUnlessItFaults : Prop :=
  ∀ (s : State) (slot : Nat), CycleNext s slot → s.fault = none →
    ∃ t, step s = .next t ∧
      ((t.fault = none ∧ t.cycles = s.cycles + 1 ∧ t.task = .live (slot + 1)) ∨
       (t.fault ≠ none ∧ t.cycles = s.cycles ∧ t.task = .exited))

/-- R222, R226: the state after a fault is the state before the cycle plus `FAULT`, `RUNNING` and `LIFE` (and the
exit of the execution task); under the policy `halt` the report of the word has been made. -/
def Obligations.FaultsArePrecise : Prop :=
  ∀ (s t : State) (code : FaultCode), s.fault = none → s.hostCalls = [] → step s = .next t →
    t.fault = some code →
    (code ≠ .unknownOpcode → t = s.faulted code) ∧
    (code = .unknownOpcode → t = { s.faulted code with log := t.log } ∧ ∃ op, t.log = s.log ++ [⟨op, s.pc⟩])

/-- R223, R225: an instruction raises the fault whose cause holds, and none otherwise. -/
def Obligations.EachFaultHasItsCause : Prop :=
  ∀ (i : Instr) (s t : State), s.fault = none → exec i s = .next t → t.fault = faultOf i s

/-- R78, R220: no instruction stops the model; each leads to a next state from every state. -/
def Obligations.EveryInstructionReachesNextState : Prop :=
  ∀ (i : Instr) (s : State), ∃ t, exec i s = .next t

/-! ### Control flow (41_control.md) -/

/-- R100: `0000` changes nothing and does not advance `PC`; its cycle is counted and nothing is reported. -/
def Obligations.IdleChangesNothing : Prop :=
  EncodedBy .idle 0x0000 ∧ (∀ s : State, exec .idle s = .next s) ∧
  ∀ (s : State) (slot : Nat), FetchNext s slot → fetchedBytes s = [0, 0] → step s = .next (s.counted slot)

/-- R101, R108: the two jumps write their target and nothing else. -/
def Obligations.JumpsWriteTheirTarget : Prop :=
  ∀ (nnn : Addr) (s : State),
    EncodedBy (.jp nnn) (0x1000 + nnn.toNat) ∧ EncodedBy (.jpV0 nnn) (0xB000 + nnn.toNat) ∧
    (∃ t, exec (.jp nnn) s = .next t ∧ t.pc.toNat = nnn.toNat ∧ MemUnchanged s t ∧ t = { s with pc := t.pc }) ∧
    (∃ t, exec (.jpV0 nnn) s = .next t ∧ t.pc.toNat = (s.reg 0).toNat + nnn.toNat ∧ MemUnchanged s t ∧
      t = { s with pc := t.pc })

/-- R102: `CALL` pushes its own address and jumps; with 16 entries in use it faults and nothing else changes. -/
def Obligations.CallPushesItsOwnAddress : Prop :=
  ∀ (nnn : Addr) (s : State),
    EncodedBy (.call nnn) (0x2000 + nnn.toNat) ∧
    (∀ h : s.sp.val < 16, ∃ t, exec (.call nnn) s = .next t ∧ t.stack[s.sp.val] = s.pc ∧
      (∀ k (hk : k < 16), k ≠ s.sp.val → t.stack[k] = s.stack[k]) ∧ t.sp.val = s.sp.val + 1 ∧
      t.pc.toNat = nnn.toNat ∧ MemUnchanged s t ∧ t = { s with stack := t.stack, sp := t.sp, pc := t.pc }) ∧
    (s.sp.val = 16 → exec (.call nnn) s = .next (s.faulted .stackOverflow))

/-- R103: `RET` pops into `PC` and adds 2, leaving the popped entry; with no entry in use it faults and nothing
else changes; after a call and a return, `PC` is the address after the call and the stack is as deep as before. -/
def Obligations.ReturnPopsAndAddsTwo : Prop :=
  EncodedBy .ret 0x00EE ∧
  ∀ s : State,
    (∀ h : 0 < s.sp.val, ∃ t, exec .ret s = .next t ∧ t.sp.val = s.sp.val - 1 ∧
      t.pc = s.stack[s.sp.val - 1] + 2 ∧ MemUnchanged s t ∧ t = { s with sp := t.sp, pc := t.pc }) ∧
    (s.sp.val = 0 → exec .ret s = .next (s.faulted .stackUnderflow)) ∧
    (∀ nnn : Addr, s.sp.val < 16 → ∃ t u, exec (.call nnn) s = .next t ∧ exec .ret t = .next u ∧
      u.pc = s.pc + 2 ∧ u.sp = s.sp ∧ MemUnchanged s u ∧ u = { s with pc := u.pc, stack := u.stack })

/-- R104, R105: the skips on an immediate. -/
def Obligations.SkipsCompareRegisterWithImmediate : Prop :=
  ∀ (x : RegIdx) (kk : Byte) (s : State),
    EncodedBy (.seImm x kk) (0x3000 + 0x100 * x.val + kk.toNat) ∧
    EncodedBy (.sneImm x kk) (0x4000 + 0x100 * x.val + kk.toNat) ∧
    (∃ t, exec (.seImm x kk) s = .next t ∧ t.pc = (if s.reg x = kk then s.pc + 4 else s.pc + 2) ∧
      MemUnchanged s t ∧ t = { s with pc := t.pc }) ∧
    (∃ t, exec (.sneImm x kk) s = .next t ∧ t.pc = (if s.reg x ≠ kk then s.pc + 4 else s.pc + 2) ∧
      MemUnchanged s t ∧ t = { s with pc := t.pc })

/-- R106, R107: the skips on two registers. -/
def Obligations.SkipsCompareTwoRegisters : Prop :=
  ∀ (x y : RegIdx) (s : State),
    EncodedBy (.seReg x y) (0x5000 + 0x100 * x.val + 0x10 * y.val) ∧
    EncodedBy (.sneReg x y) (0x9000 + 0x100 * x.val + 0x10 * y.val) ∧
    (∃ t, exec (.seReg x y) s = .next t ∧ t.pc = (if s.reg x = s.reg y then s.pc + 4 else s.pc + 2) ∧
      MemUnchanged s t ∧ t = { s with pc := t.pc }) ∧
    (∃ t, exec (.sneReg x y) s = .next t ∧ t.pc = (if s.reg x ≠ s.reg y then s.pc + 4 else s.pc + 2) ∧
      MemUnchanged s t ∧ t = { s with pc := t.pc })

/-- R79: how every instruction moves `PC` when it does not fault; no addition wraps. -/
def Obligations.EveryInstructionAdvancesPcByItsColumn : Prop :=
  (∀ (i : Instr) (s t : State), s.fault = none → exec i s = .next t → t.fault = none → t.pc = pcAfter i s) ∧
  (∀ (i : Instr) (s t : State), PcOk s → s.pc.toNat ≤ 0xFFE → exec i s = .next t → t.pc.toNat ≤ 0x10FE)

/-! ### Registers (42_alu.md) -/

/-- R130, R131: the loads copy their source into `Vx`. -/
def Obligations.RegisterLoadsCopyTheirSource : Prop :=
  ∀ (x y : RegIdx) (kk : Byte) (s : State),
    EncodedBy (.ldImm x kk) (0x6000 + 0x100 * x.val + kk.toNat) ∧
    EncodedBy (.ldReg x y) (0x8000 + 0x100 * x.val + 0x10 * y.val) ∧
    (∃ t, exec (.ldImm x kk) s = .next t ∧ t.reg x = kk ∧ (∀ r, r ≠ x → t.reg r = s.reg r) ∧
      MemUnchanged s t ∧ t = { s with v := t.v, pc := s.pc + 2 }) ∧
    (∃ t, exec (.ldReg x y) s = .next t ∧ t.reg x = s.reg y ∧ (∀ r, r ≠ x → t.reg r = s.reg r) ∧
      MemUnchanged s t ∧ t = { s with v := t.v, pc := s.pc + 2 })

/-- R132: `ADD Vx, kk` wraps modulo 256 and writes no carry. -/
def Obligations.AddImmediateWrapsAndWritesNoCarry : Prop :=
  ∀ (x : RegIdx) (kk : Byte) (s : State),
    EncodedBy (.addImm x kk) (0x7000 + 0x100 * x.val + kk.toNat) ∧
    ∃ t, exec (.addImm x kk) s = .next t ∧ (t.reg x).toNat = ((s.reg x).toNat + kk.toNat) % 256 ∧
      (∀ r, r ≠ x → t.reg r = s.reg r) ∧ MemUnchanged s t ∧ t = { s with v := t.v, pc := s.pc + 2 }

/-- R133, R144: `ADD Vx, Vy` writes the sum modulo 256, then the carry of the exact sum into `VF`. -/
def Obligations.AddRegisterWritesSumThenCarry : Prop :=
  ∀ (x y : RegIdx) (s : State),
    EncodedBy (.addReg x y) (0x8004 + 0x100 * x.val + 0x10 * y.val) ∧
    ∃ t, exec (.addReg x y) s = .next t ∧
      (x ≠ 0xF → (t.reg x).toNat = ((s.reg x).toNat + (s.reg y).toNat) % 256) ∧
      (t.reg 0xF).toNat = (if (s.reg x).toNat + (s.reg y).toNat > 0xFF then 1 else 0) ∧
      (∀ r, r ≠ x → r ≠ 0xF → t.reg r = s.reg r) ∧ MemUnchanged s t ∧ t = { s with v := t.v, pc := s.pc + 2 }

/-- R134, R135, R144: the two subtractions write the difference modulo 256, then not-borrow into `VF`. -/
def Obligations.SubtractionsWriteDifferenceThenNotBorrow : Prop :=
  ∀ (x y : RegIdx) (s : State),
    EncodedBy (.sub x y) (0x8005 + 0x100 * x.val + 0x10 * y.val) ∧
    EncodedBy (.subn x y) (0x8007 + 0x100 * x.val + 0x10 * y.val) ∧
    (∃ t, exec (.sub x y) s = .next t ∧
      (x ≠ 0xF → (t.reg x).toNat = ((s.reg x).toNat + 256 - (s.reg y).toNat) % 256) ∧
      (t.reg 0xF).toNat = (if (s.reg x).toNat ≥ (s.reg y).toNat then 1 else 0) ∧
      (∀ r, r ≠ x → r ≠ 0xF → t.reg r = s.reg r) ∧ MemUnchanged s t ∧
      t = { s with v := t.v, pc := s.pc + 2 }) ∧
    (∃ t, exec (.subn x y) s = .next t ∧
      (x ≠ 0xF → (t.reg x).toNat = ((s.reg y).toNat + 256 - (s.reg x).toNat) % 256) ∧
      (t.reg 0xF).toNat = (if (s.reg y).toNat ≥ (s.reg x).toNat then 1 else 0) ∧
      (∀ r, r ≠ x → r ≠ 0xF → t.reg r = s.reg r) ∧ MemUnchanged s t ∧
      t = { s with v := t.v, pc := s.pc + 2 })

/-- R136 to R138: the bitwise instructions combine each bit of `Vx` and `Vy` into `Vx` and leave `VF` alone. -/
def Obligations.BitwiseCombineIntoFirstRegister : Prop :=
  ∀ (x y : RegIdx) (s : State),
    EncodedBy (.orReg x y) (0x8001 + 0x100 * x.val + 0x10 * y.val) ∧
    EncodedBy (.andReg x y) (0x8002 + 0x100 * x.val + 0x10 * y.val) ∧
    EncodedBy (.xorReg x y) (0x8003 + 0x100 * x.val + 0x10 * y.val) ∧
    (∃ t, exec (.orReg x y) s = .next t ∧
      (∀ k, (t.reg x).getLsbD k = ((s.reg x).getLsbD k || (s.reg y).getLsbD k)) ∧
      (∀ r, r ≠ x → t.reg r = s.reg r) ∧ MemUnchanged s t ∧ t = { s with v := t.v, pc := s.pc + 2 }) ∧
    (∃ t, exec (.andReg x y) s = .next t ∧
      (∀ k, (t.reg x).getLsbD k = ((s.reg x).getLsbD k && (s.reg y).getLsbD k)) ∧
      (∀ r, r ≠ x → t.reg r = s.reg r) ∧ MemUnchanged s t ∧ t = { s with v := t.v, pc := s.pc + 2 }) ∧
    (∃ t, exec (.xorReg x y) s = .next t ∧
      (∀ k, (t.reg x).getLsbD k = ((s.reg x).getLsbD k ^^ (s.reg y).getLsbD k)) ∧
      (∀ r, r ≠ x → t.reg r = s.reg r) ∧ MemUnchanged s t ∧ t = { s with v := t.v, pc := s.pc + 2 })

/-- R139, R140, R144: the shifts move `Vx` by one bit, whatever `Vy` is, then write the bit shifted out into
`VF`. -/
def Obligations.ShiftsWriteResultThenShiftedOutBit : Prop :=
  ∀ (x y : RegIdx) (s : State),
    EncodedBy (.shr x y) (0x8006 + 0x100 * x.val + 0x10 * y.val) ∧
    EncodedBy (.shl x y) (0x800E + 0x100 * x.val + 0x10 * y.val) ∧
    (∃ t, exec (.shr x y) s = .next t ∧ (x ≠ 0xF → (t.reg x).toNat = (s.reg x).toNat / 2) ∧
      (t.reg 0xF).toNat = (s.reg x).toNat % 2 ∧ (∀ r, r ≠ x → r ≠ 0xF → t.reg r = s.reg r) ∧
      MemUnchanged s t ∧ t = { s with v := t.v, pc := s.pc + 2 }) ∧
    (∃ t, exec (.shl x y) s = .next t ∧ (x ≠ 0xF → (t.reg x).toNat = (s.reg x).toNat * 2 % 256) ∧
      (t.reg 0xF).toNat = (s.reg x).toNat / 0x80 ∧ (∀ r, r ≠ x → r ≠ 0xF → t.reg r = s.reg r) ∧
      MemUnchanged s t ∧ t = { s with v := t.v, pc := s.pc + 2 })

/-- R141, R143: `RND` masks one draw by `kk`; the draw is the free value numbered by the model's counter, which
moves on, so the next `RND` takes another. -/
def Obligations.RandomMasksFreshDraw : Prop :=
  ∀ (x : RegIdx) (kk : Byte) (s : State),
    EncodedBy (.rnd x kk) (0xC000 + 0x100 * x.val + kk.toNat) ∧
    ∃ t, exec (.rnd x kk) s = .next t ∧
      (∀ k, (t.reg x).getLsbD k = ((Config.draw8 s.draws).getLsbD k && kk.getLsbD k)) ∧
      (∀ r, r ≠ x → t.reg r = s.reg r) ∧ MemUnchanged s t ∧
      t = { s with v := t.v, pc := s.pc + 2, draws := s.draws + 1 }

/-- R21, R22: an instruction writes only the registers it names as destinations, and `VF` if it is one of the six
flag writers; so nothing else writes `VF`. -/
def Obligations.OnlyNamedRegistersAndFlagChange : Prop :=
  ∀ (i : Instr) (s t : State) (r : RegIdx), exec i s = .next t → isDest i r = false →
    (writesFlag i = true → r ≠ 0xF) → t.reg r = s.reg r

/-- R21 to R24, R26 to R32, R36, R51: only the listed instructions change each field; no instruction writes the keypad
copies, the published screen, the cycle count, or anything of the host's; and `RUNNING`, `LIFE` and `FAULT` (R34, R35,
R37) change only in a fault, which leaves what R222 says for the code R223 gives (`task`: log entry 4; `draws`: log
entry 1). -/
def Obligations.EachFieldHasItsWriters : Prop :=
  ∀ (i : Instr) (s t : State), exec i s = .next t →
    (t.v ≠ s.v → (∃ r, isDest i r = true) ∨ writesFlag i = true) ∧
    (t.pc ≠ s.pc → i ≠ .idle ∧ ∀ x, i ≠ .ldVxK x) ∧
    (t.i ≠ s.i → (∃ nnn, i = .ldI nnn) ∨ (∃ x, i = .addI x ∨ i = .ldF x)) ∧
    (t.mem ≠ s.mem → ∃ x, i = .ldB x ∨ i = .storeRegs x) ∧
    (t.stack ≠ s.stack → ∃ nnn, i = .call nnn) ∧
    (t.sp ≠ s.sp → (∃ nnn, i = .call nnn) ∨ i = .ret) ∧
    (t.dt ≠ s.dt → ∃ x, i = .ldDtVx x) ∧
    (t.st ≠ s.st → ∃ x, i = .ldStVx x) ∧
    (t.fb ≠ s.fb → i = .cls ∨ ∃ x y n, i = .drw x y n) ∧
    (t.wait ≠ s.wait → ∃ x, i = .ldVxK x) ∧
    (t.draws ≠ s.draws → ∃ x kk, i = .rnd x kk) ∧
    (faultOf i s = none → t.fault = s.fault ∧ t.running = s.running ∧ t.life = s.life ∧ t.task = s.task) ∧
    (∀ code, faultOf i s = some code → t = s.faulted code) ∧
    t.config = s.config ∧ t.key = s.key ∧ t.hostKey = s.hostKey ∧ t.pub = s.pub ∧ t.cycles = s.cycles ∧
    t.joining = s.joining ∧ t.frames = s.frames ∧ t.log = s.log ∧ t.hostCalls = s.hostCalls ∧
    t.replies = s.replies

/-! ### Index register and memory (43_index_memory.md, 20_memory.md) -/

/-- R160 to R162: the three writers of `I`. -/
def Obligations.IndexInstructionsWriteIndex : Prop :=
  ∀ (x : RegIdx) (nnn : Addr) (s : State),
    EncodedBy (.ldI nnn) (0xA000 + nnn.toNat) ∧ EncodedBy (.addI x) (0xF01E + 0x100 * x.val) ∧
    EncodedBy (.ldF x) (0xF029 + 0x100 * x.val) ∧
    (∃ t, exec (.ldI nnn) s = .next t ∧ t.i.toNat = nnn.toNat ∧ MemUnchanged s t ∧
      t = { s with i := t.i, pc := s.pc + 2 }) ∧
    (∃ t, exec (.addI x) s = .next t ∧ t.i.toNat = (s.i.toNat + (s.reg x).toNat) % 65536 ∧ MemUnchanged s t ∧
      t = { s with i := t.i, pc := s.pc + 2 }) ∧
    (∃ t, exec (.ldF x) s = .next t ∧ t.i.toNat = 0x050 + 5 * (s.reg x).toNat ∧ MemUnchanged s t ∧
      t = { s with i := t.i, pc := s.pc + 2 })

/-- R163: `LD B, Vx` stores the three decimal digits at `I`, or faults with no byte written. -/
def Obligations.BcdStoresDecimalDigits : Prop :=
  ∀ (x : RegIdx) (s : State),
    EncodedBy (.ldB x) (0xF033 + 0x100 * x.val) ∧
    (s.mem.wf = true → s.i.toNat + 2 ≤ 0xFFF → ∃ t, exec (.ldB x) s = .next t ∧
      (memRead t.mem s.i.toNat).toNat = (s.reg x).toNat / 100 ∧
      (memRead t.mem (s.i.toNat + 1)).toNat = (s.reg x).toNat / 10 % 10 ∧
      (memRead t.mem (s.i.toNat + 2)).toNat = (s.reg x).toNat % 10 ∧
      MemUnchangedOutside s t s.i.toNat 3 ∧ t = { s with mem := t.mem, pc := s.pc + 2 }) ∧
    (s.i.toNat + 2 > 0xFFF → exec (.ldB x) s = .next (s.faulted .memOutOfRange))

/-- R164: `LD [I], Vx` stores `V0` to `Vx` at `I` and leaves `I`, or faults with no byte written. -/
def Obligations.BlockStoreWritesRegistersInOrder : Prop :=
  ∀ (x : RegIdx) (s : State),
    EncodedBy (.storeRegs x) (0xF055 + 0x100 * x.val) ∧
    (s.mem.wf = true → s.i.toNat + x.val ≤ 0xFFF → ∃ t, exec (.storeRegs x) s = .next t ∧
      (∀ k : RegIdx, k ≤ x → memRead t.mem (s.i.toNat + k.val) = s.reg k) ∧
      MemUnchangedOutside s t s.i.toNat (x.val + 1) ∧ t = { s with mem := t.mem, pc := s.pc + 2 }) ∧
    (s.i.toNat + x.val > 0xFFF → exec (.storeRegs x) s = .next (s.faulted .memOutOfRange))

/-- R165: `LD Vx, [I]` loads `V0` to `Vx` from `I` and leaves `I`, or faults with no register written. -/
def Obligations.BlockLoadReadsRegistersInOrder : Prop :=
  ∀ (x : RegIdx) (s : State),
    EncodedBy (.loadRegs x) (0xF065 + 0x100 * x.val) ∧
    (s.i.toNat + x.val ≤ 0xFFF → ∃ t, exec (.loadRegs x) s = .next t ∧
      (∀ k : RegIdx, k ≤ x → t.reg k = memRead s.mem (s.i.toNat + k.val)) ∧
      (∀ k : RegIdx, x < k → t.reg k = s.reg k) ∧ MemUnchanged s t ∧
      t = { s with v := t.v, pc := s.pc + 2 }) ∧
    (s.i.toNat + x.val > 0xFFF → exec (.loadRegs x) s = .next (s.faulted .memOutOfRange))

/-- R60, R59: after any sequence of writes in range, oldest first, a read returns the most recent write to that byte,
or what it held before them. The second clause is the model's own (log entry 12): in its canonical form of memory, two
memories that read the same are the same data. -/
def Obligations.ReadReturnsMostRecentWrite : Prop :=
  (∀ (m : Memory) (writes : List (Nat × Byte)) (a : Nat), m.wf = true → (∀ w ∈ writes, w.1 ≤ 0xFFF) →
    memRead (writes.foldl (fun m w => memWrite m w.1 w.2) m) a =
      match writes.reverse.find? (fun w => decide (w.1 = a)) with
      | some w => w.2
      | none => memRead m a) ∧
  (∀ m₁ m₂ : Memory, m₁.wf = true → m₂.wf = true → (∀ a, memRead m₁ a = memRead m₂ a) → m₁ = m₂)

/-- R62: after `LD [I], Vx` or `LD B, Vx` a fetch at whatever address `PC` holds, even one that meets only one of the
stored bytes, reads the stored bytes where they are and the old ones elsewhere: `b` is what each address holds. -/
def Obligations.NextFetchSeesStore : Prop :=
  ∀ (x : RegIdx) (s : State) (b : Nat → Byte), s.mem.wf = true →
    (s.i.toNat + x.val ≤ 0xFFF → (∀ k : RegIdx, k ≤ x → b (s.i.toNat + k.val) = s.reg k) →
      (∀ a, a < s.i.toNat ∨ s.i.toNat + x.val < a → b a = memRead s.mem a) →
      ∃ t, exec (.storeRegs x) s = .next t ∧
        t.fetchWord.toNat = (b t.pc.toNat).toNat * 256 + (b (t.pc.toNat + 1)).toNat) ∧
    (s.i.toNat + 2 ≤ 0xFFF → (b s.i.toNat).toNat = (s.reg x).toNat / 100 →
      (b (s.i.toNat + 1)).toNat = (s.reg x).toNat / 10 % 10 → (b (s.i.toNat + 2)).toNat = (s.reg x).toNat % 10 →
      (∀ a, a < s.i.toNat ∨ s.i.toNat + 2 < a → b a = memRead s.mem a) →
      ∃ t, exec (.ldB x) s = .next t ∧
        t.fetchWord.toNat = (b t.pc.toNat).toNat * 256 + (b (t.pc.toNat + 1)).toNat)

/-! ### Display (44_display.md) -/

/-- R187: `CLS` makes every pixel 0 and changes nothing else but `PC`. -/
def Obligations.ClearScreenZeroesEveryPixel : Prop :=
  EncodedBy .cls 0x00E0 ∧
  ∀ s : State, ∃ t, exec .cls s = .next t ∧ t.fb.length = s.config.rows * s.config.cols ∧ (∀ p ∈ t.fb, p = false) ∧
    MemUnchanged s t ∧ t = { s with fb := t.fb, pc := s.pc + 2 }

/-- R182: after a sprite is drawn, a cell is its old value XORed once for each sprite bit 1 that lands on it, on
every display. -/
def Obligations.SpriteXorsEachCellItLandsOn : Prop :=
  ∀ (c : Config) (col row : Nat) (sprite : List Byte) (f : Framebuffer) (r k : Nat),
    f.length = c.rows * c.cols → r < c.rows → k < c.cols →
    (xorSprite c col row sprite f).1.length = c.rows * c.cols ∧
    pixel c (xorSprite c col row sprite f).1 r k =
      (pixel c f r k ^^ decide (spriteHits c col row sprite r k % 2 = 1))

/-- R183: on a display on which one sprite visits no cell twice (R7, log entry 14), the collision flag is true exactly when some
cell visited with sprite bit 1 held 1 before. -/
def Obligations.CollisionFlagMeansLitPixelErased : Prop :=
  ∀ (c : Config) (col row : Nat) (sprite : List Byte) (f : Framebuffer),
    c.spriteFits sprite.length = true → f.length = c.rows * c.cols →
    ((xorSprite c col row sprite f).2 = true ↔ spriteMeets c col row sprite f true)

/-- R188, L1-3: drawing the same sprite twice at the same place restores the screen, on every display; where no
cell is visited twice, the second flag is true exactly when the first call set a pixel, which after a first call
that erased none means that the sprite has a bit 1. (R188's gloss "whatever it held before" is not taken: by R182 a
lit cell holds 0 after the first call; log entry 11.) -/
def Obligations.DrawingTwiceRestoresScreen : Prop :=
  ∀ (c : Config) (col row : Nat) (sprite : List Byte) (f : Framebuffer),
    f.length = c.rows * c.cols →
    (xorSprite c col row sprite (xorSprite c col row sprite f).1).1 = f ∧
    (c.spriteFits sprite.length = true →
      ((xorSprite c col row sprite (xorSprite c col row sprite f).1).2 = true ↔
        spriteMeets c col row sprite f false) ∧
      ((xorSprite c col row sprite f).2 = false →
        ((xorSprite c col row sprite (xorSprite c col row sprite f).1).2 = true ↔ ∃ b ∈ sprite, b ≠ 0)))

/-- R186: `DRW` draws the `n` bytes at `I` at column `Vx`, row `Vy`, both read before `VF` is written, and `VF`
receives the collision flag; `n = 0` draws nothing and clears `VF`; a sprite that reaches beyond 0xFFF faults with
no pixel changed. -/
def Obligations.DrawUsesSpriteAtIndex : Prop :=
  ∀ (x y : RegIdx) (n : Fin 16) (s : State),
    EncodedBy (.drw x y n) (0xD000 + 0x100 * x.val + 0x10 * y.val + n.val) ∧
    (n.val = 0 ∨ s.i.toNat + n.val - 1 ≤ 0xFFF →
      ∃ t sprite, exec (.drw x y n) s = .next t ∧ sprite.length = n.val ∧
        (∀ dy, dy < n.val → sprite[dy]? = some (memRead s.mem (s.i.toNat + dy))) ∧
        t.fb = (xorSprite s.config (s.reg x).toNat (s.reg y).toNat sprite s.fb).1 ∧
        (t.reg 0xF).toNat =
          (if (xorSprite s.config (s.reg x).toNat (s.reg y).toNat sprite s.fb).2 then 1 else 0) ∧
        (n.val = 0 → t.fb = s.fb ∧ t.reg 0xF = 0) ∧
        (∀ r, r ≠ 0xF → t.reg r = s.reg r) ∧ MemUnchanged s t ∧
        t = { s with fb := t.fb, v := t.v, pc := s.pc + 2 }) ∧
    (n.val ≠ 0 ∧ s.i.toNat + n.val - 1 > 0xFFF → exec (.drw x y n) s = .next (s.faulted .memOutOfRange))

/-- R185: the packed view has three bytes a pixel, row-major, each `pixel_value * scale`; what the host is shown is
the view of `PUB` at the scales the spec leaves open (log entry 2). -/
def Obligations.PackedViewHasThreeBytesPerPixel : Prop :=
  (∀ (c : Config) (sr sg sb : Byte) (f : Framebuffer),
    (packedColor c sr sg sb f).length = c.rows * c.cols * 3 ∧
    ∀ r k, r < c.rows → k < c.cols →
      (packedColor c sr sg sb f)[3 * (r * c.cols + k)]? = some (if pixel c f r k then sr else 0) ∧
      (packedColor c sr sg sb f)[3 * (r * c.cols + k) + 1]? = some (if pixel c f r k then sg else 0) ∧
      (packedColor c sr sg sb f)[3 * (r * c.cols + k) + 2]? = some (if pixel c f r k then sb else 0)) ∧
  (∀ s : State, s.presentation.1 = packedColor s.config Config.scaleR Config.scaleG Config.scaleB s.pub)

/-! ### Keypad and timers (45_timers_keypad.md) -/

/-- R200, R201: the key queries skip on the latch of key `Vx`, and fault with `PC` unchanged when `Vx` is above
0xF. -/
def Obligations.KeyQueriesReadTheLatch : Prop :=
  ∀ (x : RegIdx) (s : State),
    EncodedBy (.skp x) (0xE09E + 0x100 * x.val) ∧ EncodedBy (.sknp x) (0xE0A1 + 0x100 * x.val) ∧
    (∀ h : (s.reg x).toNat < 16,
      (∃ t, exec (.skp x) s = .next t ∧
        t.pc = (if s.key[(s.reg x).toNat] = true then s.pc + 4 else s.pc + 2) ∧ MemUnchanged s t ∧
        t = { s with pc := t.pc }) ∧
      (∃ t, exec (.sknp x) s = .next t ∧
        t.pc = (if s.key[(s.reg x).toNat] = false then s.pc + 4 else s.pc + 2) ∧ MemUnchanged s t ∧
        t = { s with pc := t.pc })) ∧
    ((s.reg x).toNat > 0xF → exec (.skp x) s = .next (s.faulted .keyIndexOutOfRange) ∧
      exec (.sknp x) s = .next (s.faulted .keyIndexOutOfRange))

/-- R202 to R204, R236: `Vx` and the timers are copied; the sound output follows `ST`. -/
def Obligations.TimerInstructionsCopy : Prop :=
  ∀ (x : RegIdx) (s : State),
    EncodedBy (.ldVxDt x) (0xF007 + 0x100 * x.val) ∧ EncodedBy (.ldDtVx x) (0xF015 + 0x100 * x.val) ∧
    EncodedBy (.ldStVx x) (0xF018 + 0x100 * x.val) ∧
    (∃ t, exec (.ldVxDt x) s = .next t ∧ t.reg x = s.dt ∧ (∀ r, r ≠ x → t.reg r = s.reg r) ∧
      MemUnchanged s t ∧ t = { s with v := t.v, pc := s.pc + 2 }) ∧
    (∃ t, exec (.ldDtVx x) s = .next t ∧ MemUnchanged s t ∧ t = { s with dt := s.reg x, pc := s.pc + 2 }) ∧
    (∃ t, exec (.ldStVx x) s = .next t ∧ MemUnchanged s t ∧ t = { s with st := s.reg x, pc := s.pc + 2 }) ∧
    (s.soundOn = true ↔ s.st ≠ 0)

/-- R205: `Fx0A` starts the wait with the keys down now; `PC` and `Vx` do not change, and no key that is down now
completes the wait in the next cycle. -/
def Obligations.KeyWaitStartsWithKeysDownNow : Prop :=
  ∀ (x : RegIdx) (s : State),
    EncodedBy (.ldVxK x) (0xF00A + 0x100 * x.val) ∧
    ∃ t, exec (.ldVxK x) s = .next t ∧ MemUnchanged s t ∧ t = { s with wait := some ⟨x, s.key⟩ } ∧
      ∀ slot, CycleNext t slot → step t = .next (t.counted slot)

/-! ### Frames (60_exceptions.md) -/

/-- R230 to R232: when a frame's cycles are done the timers tick, then the screen is published, the keys are
latched and the view of the published screen is presented. -/
def Obligations.FrameEndTicksThenHandsOff : Prop :=
  ∀ (s : State) (slot : Nat), FrameEndNext s slot →
    ∃ t, step s = .next t ∧ t.dt.toNat = s.dt.toNat - 1 ∧ t.st.toNat = s.st.toNat - 1 ∧ t.pub = s.fb ∧
      t.key = s.hostKey ∧ t.frames = s.frames + 1 ∧
      t.presentation =
        (packedColor s.config Config.scaleR Config.scaleG Config.scaleB s.fb, s.config.rows) ∧
      MemUnchanged s t ∧
      t = { s with dt := t.dt, st := t.st, pub := s.fb, key := s.hostKey, frames := s.frames + 1,
                   task := .live 0 }

/-- R239, R269: only a frame's end changes the core's latch and the published screen, only a host write changes
`HOST_KEY`, and outside a frame's end only `Fx15` and `Fx18` change the timers. -/
def Obligations.KeysAndScreenChangeOnlyAtHandOff : Prop :=
  ∀ s t : State, step s = .next t →
    (t.key ≠ s.key ∨ t.pub ≠ s.pub → ∃ slot, FrameEndNext s slot) ∧
    (t.hostKey ≠ s.hostKey → ∃ keys rest, s.hostCalls = .writeKeys keys :: rest ∧ t.hostKey = keys) ∧
    (t.dt ≠ s.dt → (∃ slot, FrameEndNext s slot) ∨
      ∃ slot x, FetchNext s slot ∧ decode (fetchedBytes s) = .ok (.ldDtVx x, [])) ∧
    (t.st ≠ s.st → (∃ slot, FrameEndNext s slot) ∨
      ∃ slot x, FetchNext s slot ∧ decode (fetchedBytes s) = .ok (.ldStVx x, []))

/-! ### Lifecycle (70_reset_and_hazards.md) -/

/-- R40, R261, R260: creation gives every field of R40 its initial value, with the font and the image in memory, or
the error for which no machine is created. -/
def Obligations.CreateGivesInitialState : Prop :=
  ∀ r : CreateRequest,
    (r.allocated = false → create r = .error .memoryError) ∧
    (r.allocated = true → r.image = none → create r = .error .ioError) ∧
    (∀ image, r.allocated = true → r.image = some image → image.length > 3584 → create r = .error .ioError) ∧
    (∀ image, r.allocated = true → r.image = some image → image.length ≤ 3584 →
      ∃ s, create r = .ok s ∧
        (∀ a, a ≤ 0xFFF → memRead s.mem a =
          if 0x050 ≤ a ∧ a < 0x0A0 then r.config.font.toList.getD (a - 0x050) 0
          else if 0x200 ≤ a ∧ a < 0x200 + image.length then image.getD (a - 0x200) 0 else 0) ∧
        (∀ x, s.reg x = 0) ∧ s.i = 0 ∧ s.pc = 0x200 ∧ (∀ k (h : k < 16), s.stack[k] = 0) ∧ s.sp.val = 0 ∧
        s.dt = 0 ∧ s.st = 0 ∧ (∀ k (h : k < 16), s.key[k] = false ∧ s.hostKey[k] = false) ∧
        s.fb.length = r.config.rows * r.config.cols ∧ (∀ p ∈ s.fb, p = false) ∧
        s.pub.length = r.config.rows * r.config.cols ∧ (∀ p ∈ s.pub, p = false) ∧
        s.cycles = 0 ∧ s.running = false ∧ s.life = .idle ∧ s.wait = none ∧ s.fault = none)

/-- R262, R264 to R266: what each host call does in each lifecycle state. -/
def Obligations.HostCallsFollowLifecycle : Prop :=
  ∀ (s : State) (c : HostCall) (rest : List HostCall), s.hostCalls = c :: rest →
    ∃ q : State, q = { s with hostCalls := rest } ∧
      (s.life = .idle → c = .start true → step s = .next
        { q with running := true, life := .running, task := .live 0, replies := s.replies ++ [.done] }) ∧
      (s.life = .idle → c = .start false → step s = .next
        { q with running := false, replies := s.replies ++ [.error .threadError] }) ∧
      (∀ b, s.life ≠ .idle → c = .start b → step s = .next
        { q with replies := s.replies ++ [.error .invalidState] }) ∧
      (∀ b, s.life = .running → c = .stop b → step s = .next
        { q with running := false, joining := s.joining ++ [b] }) ∧
      (∀ b, s.life ≠ .running → c = .stop b → step s = .next
        { q with replies := s.replies ++ [.error .invalidState] }) ∧
      (c = .reinit → step s = .next { q with replies := s.replies ++ [.error .invalidState] }) ∧
      (∀ keys, c = .writeKeys keys → step s = .next
        { q with hostKey := keys, replies := s.replies ++ [.done] })

/-- R233, R207, R266: a frame start that sees `RUNNING = false` ends the task with no cycle run and a pending key
wait still set; then the waiting `stop()` returns, with `LIFE = Stopped` when its join succeeds. -/
def Obligations.PollSeesStopAndStopReturns : Prop :=
  ∀ s : State, s.hostCalls = [] →
    (s.task = .live 0 → s.running = false → step s = .next { s with task := .exited }) ∧
    (∀ rest, s.task = .exited → s.joining = true :: rest → step s = .next
      { s with joining := rest, life := .stopped, replies := s.replies ++ [.done] }) ∧
    (∀ rest, s.task = .exited → s.joining = false :: rest → step s = .next
      { s with joining := rest, replies := s.replies ++ [.error .threadError] })

/-- R273, R207: from any point of a frame, once `RUNNING` is false the task exits after at most the frame's
remaining cycles, its end and one poll, whatever the instructions do. -/
def Obligations.StopTakesEffectWithinOneFrame : Prop :=
  ∀ (s : State) (slot : Nat), s.hostCalls = [] → s.running = false → s.task = .live slot →
    ∃ k t, k ≤ s.config.cyclesPerFrame - slot + 2 ∧ Host.Core.run core k s = .next t ∧ t.task = .exited ∧
      t.frames ≤ s.frames + 1 ∧ t.cycles ≤ s.cycles + (s.config.cyclesPerFrame - slot)

/-- R37, R227: once a fault is recorded it is never cleared and no second one occurs; no step changes anything but
the host's own side. -/
def Obligations.FaultIsFinal : Prop :=
  ∀ (s t : State) (code : FaultCode), LifecycleOk s → s.fault = some code → step s = .next t →
    t.fault = some code ∧ t.life = .stopped ∧
    t = { s with hostKey := t.hostKey, joining := t.joining, hostCalls := t.hostCalls, replies := t.replies }

/-! ### Invariants -/

/-- R31, R32, R50: every step keeps every listed byte of memory at an address in range, and both screens at
ROWS x COLS cells; and it keeps the canonical form of memory, which is the model's own (log entry 12). -/
def Obligations.StepKeepsMemoryAndScreensWellFormed : Prop :=
  ∀ s t : State, DataOk s → step s = .next t → DataOk t

/-- R222, R233, R264: every step keeps `RUNNING`, `LIFE`, `FAULT` and the execution task in agreement. -/
def Obligations.StepKeepsLifecycleConsistent : Prop :=
  ∀ s t : State, LifecycleOk s → step s = .next t → LifecycleOk t

/-- R235: every step keeps `CYCLES` equal to the completed frames' cycles plus those of the frame in progress. -/
def Obligations.StepKeepsCyclesTiedToFrames : Prop :=
  ∀ s t : State, LifecycleOk s → FrameCountOk s → step s = .next t → FrameCountOk t

/-- R24: every step keeps `PC` at most 0x10FE, so it never wraps. -/
def Obligations.StepKeepsPcBelowWrap : Prop :=
  ∀ s t : State, PcOk s → step s = .next t → PcOk t

/-- The machine right after initialization (R40) meets every invariant. The canonical form of memory (log entry 12),
the execution task (log entry 4) and the count of frames (log entry 5), which the invariants speak of, are the model's
own. -/
def Obligations.ResetMeetsEveryInvariant : Prop :=
  DataOk State.reset ∧ LifecycleOk State.reset ∧ FrameCountOk State.reset ∧ PcOk State.reset ∧ SafeRun State.reset

/-! ### The order of drawing, on every display (44_display.md R182, 00_scope.md R7) -/

/-- R7: every machine has a row and a column; where a sprite fits, which it does on the default display, it visits no
cell twice. The check of values, R55's 80 font bytes among them, is the model's (log entry 8). R182: on every display,
also a smaller one, the bits of a sprite are applied in the written order, row by row and from the left, each XORed
into its cell, and the flag is true when one of them takes a cell from set to unset; where a cell is visited twice,
that R182 and not R183 gives the flag is the model's reading (log entry 14). -/
def Obligations.SpriteVisitsCellsInOrderOnEveryDisplay : Prop :=
  (∀ c : Config, 1 ≤ c.rows ∧ 1 ≤ c.cols) ∧
  (∀ (rows cols cycles : Nat) (p : UnknownOpcodePolicy) (font : List Byte),
    Config.ofValues rows cols cycles p font = none ↔ rows = 0 ∨ cols = 0 ∨ font.length ≠ 80) ∧
  (∀ height, height ≤ 15 → Config.default.spriteFits height = true) ∧
  (∀ (c : Config) (col row height dy dx dy' dx' : Nat), c.spriteFits height = true →
    dy < height → dy' < height → dx < 8 → dx' < 8 →
    (row + dy) % c.rows = (row + dy') % c.rows → (col + dx) % c.cols = (col + dx') % c.cols →
    dy = dy' ∧ dx = dx') ∧
  (∀ (c : Config) (col row : Nat) (sprite : List Byte) (f : Framebuffer),
    xorSprite c col row sprite f =
      ((List.range sprite.length).flatMap fun dy => (List.range 8).map fun dx => (dy, dx)).foldl
        (fun (acc : Framebuffer × Bool) d =>
          let bit := decide ((sprite.getD d.1 0).toNat / 2 ^ (7 - d.2) % 2 = 1)
          let old := pixel c acc.1 ((row + d.1) % c.rows) ((col + d.2) % c.cols)
          (acc.1.set ((row + d.1) % c.rows * c.cols + (col + d.2) % c.cols) (old ^^ bit),
            acc.2 || (old && bit)))
        (f, false))

/-! ### Every machine that is created -/

/-- Every machine that creation gives (R40, R260, R261) meets every invariant, has the parameters asked for and has run
nothing. The canonical form of memory (log entry 12), the execution task and the waiting `stop()` calls (log entry 4),
the frames and the log (log entry 5), the parameters in the state (log entry 6) and the host's lists (log entry 3) are
the model's own. -/
def Obligations.CreatedMachineMeetsEveryInvariant : Prop :=
  ∀ (r : CreateRequest) (s : State), create r = .ok s →
    DataOk s ∧ LifecycleOk s ∧ FrameCountOk s ∧ PcOk s ∧ SafeRun s ∧ s.config = r.config ∧ s.task = .notSpawned ∧
    s.joining = [] ∧ s.hostCalls = [] ∧ s.replies = []
end

