-- ==== Sys2Proof/Laws/State.lean ====
section
/-!
SUPPORT. One lemma per field per named update of the state: what the update leaves the field at.
-/

namespace Sys2Proof.Machine

/-! ### `setReg` -/

@[simp] theorem State.setReg_config (s : State) (x : RegIdx) (b : Byte) : (s.setReg x b).config = s.config := rfl
@[simp] theorem State.setReg_mem (s : State) (x : RegIdx) (b : Byte) : (s.setReg x b).mem = s.mem := rfl
@[simp] theorem State.setReg_v (s : State) (x : RegIdx) (b : Byte) : (s.setReg x b).v = s.v.set x.val b := rfl
@[simp] theorem State.setReg_i (s : State) (x : RegIdx) (b : Byte) : (s.setReg x b).i = s.i := rfl
@[simp] theorem State.setReg_pc (s : State) (x : RegIdx) (b : Byte) : (s.setReg x b).pc = s.pc := rfl
@[simp] theorem State.setReg_stack (s : State) (x : RegIdx) (b : Byte) : (s.setReg x b).stack = s.stack := rfl
@[simp] theorem State.setReg_sp (s : State) (x : RegIdx) (b : Byte) : (s.setReg x b).sp = s.sp := rfl
@[simp] theorem State.setReg_dt (s : State) (x : RegIdx) (b : Byte) : (s.setReg x b).dt = s.dt := rfl
@[simp] theorem State.setReg_st (s : State) (x : RegIdx) (b : Byte) : (s.setReg x b).st = s.st := rfl
@[simp] theorem State.setReg_key (s : State) (x : RegIdx) (b : Byte) : (s.setReg x b).key = s.key := rfl
@[simp] theorem State.setReg_hostKey (s : State) (x : RegIdx) (b : Byte) : (s.setReg x b).hostKey = s.hostKey := rfl
@[simp] theorem State.setReg_fb (s : State) (x : RegIdx) (b : Byte) : (s.setReg x b).fb = s.fb := rfl
@[simp] theorem State.setReg_pub (s : State) (x : RegIdx) (b : Byte) : (s.setReg x b).pub = s.pub := rfl
@[simp] theorem State.setReg_cycles (s : State) (x : RegIdx) (b : Byte) : (s.setReg x b).cycles = s.cycles := rfl
@[simp] theorem State.setReg_running (s : State) (x : RegIdx) (b : Byte) : (s.setReg x b).running = s.running := rfl
@[simp] theorem State.setReg_life (s : State) (x : RegIdx) (b : Byte) : (s.setReg x b).life = s.life := rfl
@[simp] theorem State.setReg_wait (s : State) (x : RegIdx) (b : Byte) : (s.setReg x b).wait = s.wait := rfl
@[simp] theorem State.setReg_fault (s : State) (x : RegIdx) (b : Byte) : (s.setReg x b).fault = s.fault := rfl
@[simp] theorem State.setReg_task (s : State) (x : RegIdx) (b : Byte) : (s.setReg x b).task = s.task := rfl
@[simp] theorem State.setReg_joining (s : State) (x : RegIdx) (b : Byte) : (s.setReg x b).joining = s.joining := rfl
@[simp] theorem State.setReg_frames (s : State) (x : RegIdx) (b : Byte) : (s.setReg x b).frames = s.frames := rfl
@[simp] theorem State.setReg_log (s : State) (x : RegIdx) (b : Byte) : (s.setReg x b).log = s.log := rfl
@[simp] theorem State.setReg_draws (s : State) (x : RegIdx) (b : Byte) : (s.setReg x b).draws = s.draws := rfl
@[simp] theorem State.setReg_hostCalls (s : State) (x : RegIdx) (b : Byte) : (s.setReg x b).hostCalls = s.hostCalls := rfl
@[simp] theorem State.setReg_replies (s : State) (x : RegIdx) (b : Byte) : (s.setReg x b).replies = s.replies := rfl

/-! ### `setI` -/

@[simp] theorem State.setI_config (s : State) (a : Half) : (s.setI a).config = s.config := rfl
@[simp] theorem State.setI_mem (s : State) (a : Half) : (s.setI a).mem = s.mem := rfl
@[simp] theorem State.setI_v (s : State) (a : Half) : (s.setI a).v = s.v := rfl
@[simp] theorem State.setI_i (s : State) (a : Half) : (s.setI a).i = a := rfl
@[simp] theorem State.setI_pc (s : State) (a : Half) : (s.setI a).pc = s.pc := rfl
@[simp] theorem State.setI_stack (s : State) (a : Half) : (s.setI a).stack = s.stack := rfl
@[simp] theorem State.setI_sp (s : State) (a : Half) : (s.setI a).sp = s.sp := rfl
@[simp] theorem State.setI_dt (s : State) (a : Half) : (s.setI a).dt = s.dt := rfl
@[simp] theorem State.setI_st (s : State) (a : Half) : (s.setI a).st = s.st := rfl
@[simp] theorem State.setI_key (s : State) (a : Half) : (s.setI a).key = s.key := rfl
@[simp] theorem State.setI_hostKey (s : State) (a : Half) : (s.setI a).hostKey = s.hostKey := rfl
@[simp] theorem State.setI_fb (s : State) (a : Half) : (s.setI a).fb = s.fb := rfl
@[simp] theorem State.setI_pub (s : State) (a : Half) : (s.setI a).pub = s.pub := rfl
@[simp] theorem State.setI_cycles (s : State) (a : Half) : (s.setI a).cycles = s.cycles := rfl
@[simp] theorem State.setI_running (s : State) (a : Half) : (s.setI a).running = s.running := rfl
@[simp] theorem State.setI_life (s : State) (a : Half) : (s.setI a).life = s.life := rfl
@[simp] theorem State.setI_wait (s : State) (a : Half) : (s.setI a).wait = s.wait := rfl
@[simp] theorem State.setI_fault (s : State) (a : Half) : (s.setI a).fault = s.fault := rfl
@[simp] theorem State.setI_task (s : State) (a : Half) : (s.setI a).task = s.task := rfl
@[simp] theorem State.setI_joining (s : State) (a : Half) : (s.setI a).joining = s.joining := rfl
@[simp] theorem State.setI_frames (s : State) (a : Half) : (s.setI a).frames = s.frames := rfl
@[simp] theorem State.setI_log (s : State) (a : Half) : (s.setI a).log = s.log := rfl
@[simp] theorem State.setI_draws (s : State) (a : Half) : (s.setI a).draws = s.draws := rfl
@[simp] theorem State.setI_hostCalls (s : State) (a : Half) : (s.setI a).hostCalls = s.hostCalls := rfl
@[simp] theorem State.setI_replies (s : State) (a : Half) : (s.setI a).replies = s.replies := rfl

/-! ### `setPc` -/

@[simp] theorem State.setPc_config (s : State) (a : Half) : (s.setPc a).config = s.config := rfl
@[simp] theorem State.setPc_mem (s : State) (a : Half) : (s.setPc a).mem = s.mem := rfl
@[simp] theorem State.setPc_v (s : State) (a : Half) : (s.setPc a).v = s.v := rfl
@[simp] theorem State.setPc_i (s : State) (a : Half) : (s.setPc a).i = s.i := rfl
@[simp] theorem State.setPc_pc (s : State) (a : Half) : (s.setPc a).pc = a := rfl
@[simp] theorem State.setPc_stack (s : State) (a : Half) : (s.setPc a).stack = s.stack := rfl
@[simp] theorem State.setPc_sp (s : State) (a : Half) : (s.setPc a).sp = s.sp := rfl
@[simp] theorem State.setPc_dt (s : State) (a : Half) : (s.setPc a).dt = s.dt := rfl
@[simp] theorem State.setPc_st (s : State) (a : Half) : (s.setPc a).st = s.st := rfl
@[simp] theorem State.setPc_key (s : State) (a : Half) : (s.setPc a).key = s.key := rfl
@[simp] theorem State.setPc_hostKey (s : State) (a : Half) : (s.setPc a).hostKey = s.hostKey := rfl
@[simp] theorem State.setPc_fb (s : State) (a : Half) : (s.setPc a).fb = s.fb := rfl
@[simp] theorem State.setPc_pub (s : State) (a : Half) : (s.setPc a).pub = s.pub := rfl
@[simp] theorem State.setPc_cycles (s : State) (a : Half) : (s.setPc a).cycles = s.cycles := rfl
@[simp] theorem State.setPc_running (s : State) (a : Half) : (s.setPc a).running = s.running := rfl
@[simp] theorem State.setPc_life (s : State) (a : Half) : (s.setPc a).life = s.life := rfl
@[simp] theorem State.setPc_wait (s : State) (a : Half) : (s.setPc a).wait = s.wait := rfl
@[simp] theorem State.setPc_fault (s : State) (a : Half) : (s.setPc a).fault = s.fault := rfl
@[simp] theorem State.setPc_task (s : State) (a : Half) : (s.setPc a).task = s.task := rfl
@[simp] theorem State.setPc_joining (s : State) (a : Half) : (s.setPc a).joining = s.joining := rfl
@[simp] theorem State.setPc_frames (s : State) (a : Half) : (s.setPc a).frames = s.frames := rfl
@[simp] theorem State.setPc_log (s : State) (a : Half) : (s.setPc a).log = s.log := rfl
@[simp] theorem State.setPc_draws (s : State) (a : Half) : (s.setPc a).draws = s.draws := rfl
@[simp] theorem State.setPc_hostCalls (s : State) (a : Half) : (s.setPc a).hostCalls = s.hostCalls := rfl
@[simp] theorem State.setPc_replies (s : State) (a : Half) : (s.setPc a).replies = s.replies := rfl

/-! ### `advance` -/

@[simp] theorem State.advance_config (s : State) : (s.advance).config = s.config := rfl
@[simp] theorem State.advance_mem (s : State) : (s.advance).mem = s.mem := rfl
@[simp] theorem State.advance_v (s : State) : (s.advance).v = s.v := rfl
@[simp] theorem State.advance_i (s : State) : (s.advance).i = s.i := rfl
@[simp] theorem State.advance_pc (s : State) : (s.advance).pc = s.pc + 2 := rfl
@[simp] theorem State.advance_stack (s : State) : (s.advance).stack = s.stack := rfl
@[simp] theorem State.advance_sp (s : State) : (s.advance).sp = s.sp := rfl
@[simp] theorem State.advance_dt (s : State) : (s.advance).dt = s.dt := rfl
@[simp] theorem State.advance_st (s : State) : (s.advance).st = s.st := rfl
@[simp] theorem State.advance_key (s : State) : (s.advance).key = s.key := rfl
@[simp] theorem State.advance_hostKey (s : State) : (s.advance).hostKey = s.hostKey := rfl
@[simp] theorem State.advance_fb (s : State) : (s.advance).fb = s.fb := rfl
@[simp] theorem State.advance_pub (s : State) : (s.advance).pub = s.pub := rfl
@[simp] theorem State.advance_cycles (s : State) : (s.advance).cycles = s.cycles := rfl
@[simp] theorem State.advance_running (s : State) : (s.advance).running = s.running := rfl
@[simp] theorem State.advance_life (s : State) : (s.advance).life = s.life := rfl
@[simp] theorem State.advance_wait (s : State) : (s.advance).wait = s.wait := rfl
@[simp] theorem State.advance_fault (s : State) : (s.advance).fault = s.fault := rfl
@[simp] theorem State.advance_task (s : State) : (s.advance).task = s.task := rfl
@[simp] theorem State.advance_joining (s : State) : (s.advance).joining = s.joining := rfl
@[simp] theorem State.advance_frames (s : State) : (s.advance).frames = s.frames := rfl
@[simp] theorem State.advance_log (s : State) : (s.advance).log = s.log := rfl
@[simp] theorem State.advance_draws (s : State) : (s.advance).draws = s.draws := rfl
@[simp] theorem State.advance_hostCalls (s : State) : (s.advance).hostCalls = s.hostCalls := rfl
@[simp] theorem State.advance_replies (s : State) : (s.advance).replies = s.replies := rfl

/-! ### `setMem` -/

@[simp] theorem State.setMem_config (s : State) (m : Memory) : (s.setMem m).config = s.config := rfl
@[simp] theorem State.setMem_mem (s : State) (m : Memory) : (s.setMem m).mem = m := rfl
@[simp] theorem State.setMem_v (s : State) (m : Memory) : (s.setMem m).v = s.v := rfl
@[simp] theorem State.setMem_i (s : State) (m : Memory) : (s.setMem m).i = s.i := rfl
@[simp] theorem State.setMem_pc (s : State) (m : Memory) : (s.setMem m).pc = s.pc := rfl
@[simp] theorem State.setMem_stack (s : State) (m : Memory) : (s.setMem m).stack = s.stack := rfl
@[simp] theorem State.setMem_sp (s : State) (m : Memory) : (s.setMem m).sp = s.sp := rfl
@[simp] theorem State.setMem_dt (s : State) (m : Memory) : (s.setMem m).dt = s.dt := rfl
@[simp] theorem State.setMem_st (s : State) (m : Memory) : (s.setMem m).st = s.st := rfl
@[simp] theorem State.setMem_key (s : State) (m : Memory) : (s.setMem m).key = s.key := rfl
@[simp] theorem State.setMem_hostKey (s : State) (m : Memory) : (s.setMem m).hostKey = s.hostKey := rfl
@[simp] theorem State.setMem_fb (s : State) (m : Memory) : (s.setMem m).fb = s.fb := rfl
@[simp] theorem State.setMem_pub (s : State) (m : Memory) : (s.setMem m).pub = s.pub := rfl
@[simp] theorem State.setMem_cycles (s : State) (m : Memory) : (s.setMem m).cycles = s.cycles := rfl
@[simp] theorem State.setMem_running (s : State) (m : Memory) : (s.setMem m).running = s.running := rfl
@[simp] theorem State.setMem_life (s : State) (m : Memory) : (s.setMem m).life = s.life := rfl
@[simp] theorem State.setMem_wait (s : State) (m : Memory) : (s.setMem m).wait = s.wait := rfl
@[simp] theorem State.setMem_fault (s : State) (m : Memory) : (s.setMem m).fault = s.fault := rfl
@[simp] theorem State.setMem_task (s : State) (m : Memory) : (s.setMem m).task = s.task := rfl
@[simp] theorem State.setMem_joining (s : State) (m : Memory) : (s.setMem m).joining = s.joining := rfl
@[simp] theorem State.setMem_frames (s : State) (m : Memory) : (s.setMem m).frames = s.frames := rfl
@[simp] theorem State.setMem_log (s : State) (m : Memory) : (s.setMem m).log = s.log := rfl
@[simp] theorem State.setMem_draws (s : State) (m : Memory) : (s.setMem m).draws = s.draws := rfl
@[simp] theorem State.setMem_hostCalls (s : State) (m : Memory) : (s.setMem m).hostCalls = s.hostCalls := rfl
@[simp] theorem State.setMem_replies (s : State) (m : Memory) : (s.setMem m).replies = s.replies := rfl

/-! ### `setFb` -/

@[simp] theorem State.setFb_config (s : State) (f : Framebuffer) : (s.setFb f).config = s.config := rfl
@[simp] theorem State.setFb_mem (s : State) (f : Framebuffer) : (s.setFb f).mem = s.mem := rfl
@[simp] theorem State.setFb_v (s : State) (f : Framebuffer) : (s.setFb f).v = s.v := rfl
@[simp] theorem State.setFb_i (s : State) (f : Framebuffer) : (s.setFb f).i = s.i := rfl
@[simp] theorem State.setFb_pc (s : State) (f : Framebuffer) : (s.setFb f).pc = s.pc := rfl
@[simp] theorem State.setFb_stack (s : State) (f : Framebuffer) : (s.setFb f).stack = s.stack := rfl
@[simp] theorem State.setFb_sp (s : State) (f : Framebuffer) : (s.setFb f).sp = s.sp := rfl
@[simp] theorem State.setFb_dt (s : State) (f : Framebuffer) : (s.setFb f).dt = s.dt := rfl
@[simp] theorem State.setFb_st (s : State) (f : Framebuffer) : (s.setFb f).st = s.st := rfl
@[simp] theorem State.setFb_key (s : State) (f : Framebuffer) : (s.setFb f).key = s.key := rfl
@[simp] theorem State.setFb_hostKey (s : State) (f : Framebuffer) : (s.setFb f).hostKey = s.hostKey := rfl
@[simp] theorem State.setFb_fb (s : State) (f : Framebuffer) : (s.setFb f).fb = f := rfl
@[simp] theorem State.setFb_pub (s : State) (f : Framebuffer) : (s.setFb f).pub = s.pub := rfl
@[simp] theorem State.setFb_cycles (s : State) (f : Framebuffer) : (s.setFb f).cycles = s.cycles := rfl
@[simp] theorem State.setFb_running (s : State) (f : Framebuffer) : (s.setFb f).running = s.running := rfl
@[simp] theorem State.setFb_life (s : State) (f : Framebuffer) : (s.setFb f).life = s.life := rfl
@[simp] theorem State.setFb_wait (s : State) (f : Framebuffer) : (s.setFb f).wait = s.wait := rfl
@[simp] theorem State.setFb_fault (s : State) (f : Framebuffer) : (s.setFb f).fault = s.fault := rfl
@[simp] theorem State.setFb_task (s : State) (f : Framebuffer) : (s.setFb f).task = s.task := rfl
@[simp] theorem State.setFb_joining (s : State) (f : Framebuffer) : (s.setFb f).joining = s.joining := rfl
@[simp] theorem State.setFb_frames (s : State) (f : Framebuffer) : (s.setFb f).frames = s.frames := rfl
@[simp] theorem State.setFb_log (s : State) (f : Framebuffer) : (s.setFb f).log = s.log := rfl
@[simp] theorem State.setFb_draws (s : State) (f : Framebuffer) : (s.setFb f).draws = s.draws := rfl
@[simp] theorem State.setFb_hostCalls (s : State) (f : Framebuffer) : (s.setFb f).hostCalls = s.hostCalls := rfl
@[simp] theorem State.setFb_replies (s : State) (f : Framebuffer) : (s.setFb f).replies = s.replies := rfl

/-! ### `takeFault` -/

@[simp] theorem State.takeFault_config (s : State) (c : FaultCode) : (s.takeFault c).config = s.config := rfl
@[simp] theorem State.takeFault_mem (s : State) (c : FaultCode) : (s.takeFault c).mem = s.mem := rfl
@[simp] theorem State.takeFault_v (s : State) (c : FaultCode) : (s.takeFault c).v = s.v := rfl
@[simp] theorem State.takeFault_i (s : State) (c : FaultCode) : (s.takeFault c).i = s.i := rfl
@[simp] theorem State.takeFault_pc (s : State) (c : FaultCode) : (s.takeFault c).pc = s.pc := rfl
@[simp] theorem State.takeFault_stack (s : State) (c : FaultCode) : (s.takeFault c).stack = s.stack := rfl
@[simp] theorem State.takeFault_sp (s : State) (c : FaultCode) : (s.takeFault c).sp = s.sp := rfl
@[simp] theorem State.takeFault_dt (s : State) (c : FaultCode) : (s.takeFault c).dt = s.dt := rfl
@[simp] theorem State.takeFault_st (s : State) (c : FaultCode) : (s.takeFault c).st = s.st := rfl
@[simp] theorem State.takeFault_key (s : State) (c : FaultCode) : (s.takeFault c).key = s.key := rfl
@[simp] theorem State.takeFault_hostKey (s : State) (c : FaultCode) : (s.takeFault c).hostKey = s.hostKey := rfl
@[simp] theorem State.takeFault_fb (s : State) (c : FaultCode) : (s.takeFault c).fb = s.fb := rfl
@[simp] theorem State.takeFault_pub (s : State) (c : FaultCode) : (s.takeFault c).pub = s.pub := rfl
@[simp] theorem State.takeFault_cycles (s : State) (c : FaultCode) : (s.takeFault c).cycles = s.cycles := rfl
@[simp] theorem State.takeFault_running (s : State) (c : FaultCode) : (s.takeFault c).running = false := rfl
@[simp] theorem State.takeFault_life (s : State) (c : FaultCode) : (s.takeFault c).life = .stopped := rfl
@[simp] theorem State.takeFault_wait (s : State) (c : FaultCode) : (s.takeFault c).wait = s.wait := rfl
@[simp] theorem State.takeFault_fault (s : State) (c : FaultCode) : (s.takeFault c).fault = some c := rfl
@[simp] theorem State.takeFault_task (s : State) (c : FaultCode) : (s.takeFault c).task = .exited := rfl
@[simp] theorem State.takeFault_joining (s : State) (c : FaultCode) : (s.takeFault c).joining = s.joining := rfl
@[simp] theorem State.takeFault_frames (s : State) (c : FaultCode) : (s.takeFault c).frames = s.frames := rfl
@[simp] theorem State.takeFault_log (s : State) (c : FaultCode) : (s.takeFault c).log = s.log := rfl
@[simp] theorem State.takeFault_draws (s : State) (c : FaultCode) : (s.takeFault c).draws = s.draws := rfl
@[simp] theorem State.takeFault_hostCalls (s : State) (c : FaultCode) : (s.takeFault c).hostCalls = s.hostCalls := rfl
@[simp] theorem State.takeFault_replies (s : State) (c : FaultCode) : (s.takeFault c).replies = s.replies := rfl

/-! ### `report` -/

@[simp] theorem State.report_config (s : State) (op : Half) : (s.report op).config = s.config := rfl
@[simp] theorem State.report_mem (s : State) (op : Half) : (s.report op).mem = s.mem := rfl
@[simp] theorem State.report_v (s : State) (op : Half) : (s.report op).v = s.v := rfl
@[simp] theorem State.report_i (s : State) (op : Half) : (s.report op).i = s.i := rfl
@[simp] theorem State.report_pc (s : State) (op : Half) : (s.report op).pc = s.pc := rfl
@[simp] theorem State.report_stack (s : State) (op : Half) : (s.report op).stack = s.stack := rfl
@[simp] theorem State.report_sp (s : State) (op : Half) : (s.report op).sp = s.sp := rfl
@[simp] theorem State.report_dt (s : State) (op : Half) : (s.report op).dt = s.dt := rfl
@[simp] theorem State.report_st (s : State) (op : Half) : (s.report op).st = s.st := rfl
@[simp] theorem State.report_key (s : State) (op : Half) : (s.report op).key = s.key := rfl
@[simp] theorem State.report_hostKey (s : State) (op : Half) : (s.report op).hostKey = s.hostKey := rfl
@[simp] theorem State.report_fb (s : State) (op : Half) : (s.report op).fb = s.fb := rfl
@[simp] theorem State.report_pub (s : State) (op : Half) : (s.report op).pub = s.pub := rfl
@[simp] theorem State.report_cycles (s : State) (op : Half) : (s.report op).cycles = s.cycles := rfl
@[simp] theorem State.report_running (s : State) (op : Half) : (s.report op).running = s.running := rfl
@[simp] theorem State.report_life (s : State) (op : Half) : (s.report op).life = s.life := rfl
@[simp] theorem State.report_wait (s : State) (op : Half) : (s.report op).wait = s.wait := rfl
@[simp] theorem State.report_fault (s : State) (op : Half) : (s.report op).fault = s.fault := rfl
@[simp] theorem State.report_task (s : State) (op : Half) : (s.report op).task = s.task := rfl
@[simp] theorem State.report_joining (s : State) (op : Half) : (s.report op).joining = s.joining := rfl
@[simp] theorem State.report_frames (s : State) (op : Half) : (s.report op).frames = s.frames := rfl
@[simp] theorem State.report_log (s : State) (op : Half) : (s.report op).log = s.log ++ [⟨op, s.pc⟩] := rfl
@[simp] theorem State.report_draws (s : State) (op : Half) : (s.report op).draws = s.draws := rfl
@[simp] theorem State.report_hostCalls (s : State) (op : Half) : (s.report op).hostCalls = s.hostCalls := rfl
@[simp] theorem State.report_replies (s : State) (op : Half) : (s.report op).replies = s.replies := rfl

/-! ### `replyWith` -/

@[simp] theorem State.replyWith_config (s : State) (r : HostReply) : (s.replyWith r).config = s.config := rfl
@[simp] theorem State.replyWith_mem (s : State) (r : HostReply) : (s.replyWith r).mem = s.mem := rfl
@[simp] theorem State.replyWith_v (s : State) (r : HostReply) : (s.replyWith r).v = s.v := rfl
@[simp] theorem State.replyWith_i (s : State) (r : HostReply) : (s.replyWith r).i = s.i := rfl
@[simp] theorem State.replyWith_pc (s : State) (r : HostReply) : (s.replyWith r).pc = s.pc := rfl
@[simp] theorem State.replyWith_stack (s : State) (r : HostReply) : (s.replyWith r).stack = s.stack := rfl
@[simp] theorem State.replyWith_sp (s : State) (r : HostReply) : (s.replyWith r).sp = s.sp := rfl
@[simp] theorem State.replyWith_dt (s : State) (r : HostReply) : (s.replyWith r).dt = s.dt := rfl
@[simp] theorem State.replyWith_st (s : State) (r : HostReply) : (s.replyWith r).st = s.st := rfl
@[simp] theorem State.replyWith_key (s : State) (r : HostReply) : (s.replyWith r).key = s.key := rfl
@[simp] theorem State.replyWith_hostKey (s : State) (r : HostReply) : (s.replyWith r).hostKey = s.hostKey := rfl
@[simp] theorem State.replyWith_fb (s : State) (r : HostReply) : (s.replyWith r).fb = s.fb := rfl
@[simp] theorem State.replyWith_pub (s : State) (r : HostReply) : (s.replyWith r).pub = s.pub := rfl
@[simp] theorem State.replyWith_cycles (s : State) (r : HostReply) : (s.replyWith r).cycles = s.cycles := rfl
@[simp] theorem State.replyWith_running (s : State) (r : HostReply) : (s.replyWith r).running = s.running := rfl
@[simp] theorem State.replyWith_life (s : State) (r : HostReply) : (s.replyWith r).life = s.life := rfl
@[simp] theorem State.replyWith_wait (s : State) (r : HostReply) : (s.replyWith r).wait = s.wait := rfl
@[simp] theorem State.replyWith_fault (s : State) (r : HostReply) : (s.replyWith r).fault = s.fault := rfl
@[simp] theorem State.replyWith_task (s : State) (r : HostReply) : (s.replyWith r).task = s.task := rfl
@[simp] theorem State.replyWith_joining (s : State) (r : HostReply) : (s.replyWith r).joining = s.joining := rfl
@[simp] theorem State.replyWith_frames (s : State) (r : HostReply) : (s.replyWith r).frames = s.frames := rfl
@[simp] theorem State.replyWith_log (s : State) (r : HostReply) : (s.replyWith r).log = s.log := rfl
@[simp] theorem State.replyWith_draws (s : State) (r : HostReply) : (s.replyWith r).draws = s.draws := rfl
@[simp] theorem State.replyWith_hostCalls (s : State) (r : HostReply) : (s.replyWith r).hostCalls = s.hostCalls := rfl
@[simp] theorem State.replyWith_replies (s : State) (r : HostReply) : (s.replyWith r).replies = s.replies ++ [r] := rfl

/-! ### Reading a register after an update -/

@[simp] theorem State.reg_setReg_self (s : State) (x : RegIdx) (b : Byte) : (s.setReg x b).reg x = b := by
  simp [State.reg]

theorem State.reg_setReg_ne (s : State) (x r : RegIdx) (b : Byte) (h : r ≠ x) :
    (s.setReg x b).reg r = s.reg r := by
  simp only [State.reg, State.setReg_v]
  exact Vector.getElem_set_ne _ _ fun e => h (Fin.ext e.symm)

theorem State.reg_setReg (s : State) (x r : RegIdx) (b : Byte) :
    (s.setReg x b).reg r = if r = x then b else s.reg r := by
  split
  · next h => simp [h]
  · next h => exact State.reg_setReg_ne s x r b h

@[simp] theorem State.reg_advance (s : State) (r : RegIdx) : s.advance.reg r = s.reg r := rfl
@[simp] theorem State.reg_setPc (s : State) (a : Half) (r : RegIdx) : (s.setPc a).reg r = s.reg r := rfl
@[simp] theorem State.reg_setI (s : State) (a : Half) (r : RegIdx) : (s.setI a).reg r = s.reg r := rfl
@[simp] theorem State.reg_setMem (s : State) (m : Memory) (r : RegIdx) : (s.setMem m).reg r = s.reg r := rfl
@[simp] theorem State.reg_setFb (s : State) (f : Framebuffer) (r : RegIdx) : (s.setFb f).reg r = s.reg r := rfl
@[simp] theorem State.reg_takeFault (s : State) (c : FaultCode) (r : RegIdx) :
    (s.takeFault c).reg r = s.reg r := rfl

/-! ### Writing `Vx`, and `VF` after it -/

@[simp] theorem State.reg_writeReg (s : State) (x r : RegIdx) (b : Byte) :
    (s.writeReg x b).reg r = if r = x then b else s.reg r := by
  simp [State.writeReg, State.reg_setReg]

@[simp] theorem State.reg_writeWithFlag (s : State) (x r : RegIdx) (b f : Byte) :
    (s.writeWithFlag x b f).reg r = if r = vf then f else if r = x then b else s.reg r := by
  simp [State.writeWithFlag, State.reg_setReg]

/-- Writing a register changes `V` and `PC` only. -/
theorem State.writeReg_frame (s : State) (x : RegIdx) (b : Byte) :
    s.writeReg x b = { s with v := (s.writeReg x b).v, pc := s.pc + 2 } := rfl

/-- Writing a result and a flag changes `V` and `PC` only. -/
theorem State.writeWithFlag_frame (s : State) (x : RegIdx) (b f : Byte) :
    s.writeWithFlag x b f = { s with v := (s.writeWithFlag x b f).v, pc := s.pc + 2 } := rfl

/-- A skip changes `PC` only. -/
theorem State.skipIf_frame (s : State) (taken : Bool) :
    s.skipIf taken = { s with pc := if taken then s.pc + 4 else s.pc + 2 } := by
  cases taken <;> rfl

end Sys2Proof.Machine
end

