-- ==== Sys2Proof/Laws/Decode.lean ====
section
/-!
SUPPORT. The masks of the decode table as arithmetic on a word's nibbles, and the fields of the words the encoder
builds (30_encoding.md R71, R74).
-/

namespace Sys2Proof

/-! ### A word and its nibbles -/

theorem half_and_toNat (op m : Half) : (op &&& m).toNat = op.toNat &&& m.toNat := BitVec.toNat_and ..

/-- The mask of the formats that match the major nibble alone. -/
theorem and_F000 (n : Nat) (h : n < 65536) : n &&& 0xF000 = n / 4096 * 4096 := by
  have hd : (n &&& 0xF000) / 4096 = n / 4096 := by
    rw [show 4096 = 2 ^ 12 from rfl, Nat.and_div_two_pow]
    show n / 2 ^ 12 &&& 2 ^ 4 - 1 = _
    rw [Nat.and_two_pow_sub_one_eq_mod]; omega
  have hm : (n &&& 0xF000) % 4096 = 0 := by
    rw [show 4096 = 2 ^ 12 from rfl, Nat.and_mod_two_pow]; exact Nat.and_zero _
  omega

/-- The low `k` bits of a mask that ends in `k` ones. -/
theorem and_low (n m k : Nat) (hm : m % 2 ^ k = 2 ^ k - 1) : (n &&& m) % 2 ^ k = n % 2 ^ k := by
  rw [Nat.and_mod_two_pow, hm, Nat.and_two_pow_sub_one_eq_mod, Nat.mod_mod]

theorem and_F00F (n : Nat) (h : n < 65536) : n &&& 0xF00F = n / 4096 * 4096 + n % 16 := by
  have hl : (n &&& 0xF00F) % 2 ^ 4 = n % 2 ^ 4 := and_low n _ 4 rfl
  have hd : (n &&& 0xF00F) / 2 ^ 4 = n / 2 ^ 4 &&& 0xF00 := Nat.and_div_two_pow ..
  have he : n / 2 ^ 4 &&& 0xF00 = n / 2 ^ 12 * 256 := by
    have h1 : (n / 2 ^ 4 &&& 0xF00) / 2 ^ 8 = n / 2 ^ 4 / 2 ^ 8 &&& 2 ^ 4 - 1 := Nat.and_div_two_pow ..
    have h2 : (n / 2 ^ 4 &&& 0xF00) % 2 ^ 8 = 0 := by
      rw [Nat.and_mod_two_pow]; exact Nat.and_zero _
    rw [Nat.and_two_pow_sub_one_eq_mod] at h1
    omega
  omega

theorem and_F0FF (n : Nat) (h : n < 65536) : n &&& 0xF0FF = n / 4096 * 4096 + n % 256 := by
  have hl : (n &&& 0xF0FF) % 2 ^ 8 = n % 2 ^ 8 := and_low n _ 8 rfl
  have hd : (n &&& 0xF0FF) / 2 ^ 8 = n / 2 ^ 8 &&& 0xF0 := Nat.and_div_two_pow ..
  have he : n / 2 ^ 8 &&& 0xF0 = n / 2 ^ 12 * 16 := by
    have h1 : (n / 2 ^ 8 &&& 0xF0) / 2 ^ 4 = n / 2 ^ 8 / 2 ^ 4 &&& 2 ^ 4 - 1 := Nat.and_div_two_pow ..
    have h2 : (n / 2 ^ 8 &&& 0xF0) % 2 ^ 4 = 0 := by
      rw [Nat.and_mod_two_pow]; exact Nat.and_zero _
    rw [Nat.and_two_pow_sub_one_eq_mod] at h1
    omega
  omega

/-! ### What it takes to select a row, one lemma per mask of R74 -/

theorem beq_toNat (a b : Half) : (a == b) = decide (a.toNat = b.toNat) := by
  rw [Bool.eq_iff_iff]; simp [BitVec.toNat_eq]

theorem selects_FFFF (op p : Half) : ((op &&& 0xFFFF) == p) = decide (op.toNat = p.toNat) := by
  rw [beq_toNat, half_and_toNat, show (0xFFFF : Half).toNat = 2 ^ 16 - 1 from rfl,
    Nat.and_two_pow_sub_one_eq_mod, Nat.mod_eq_of_lt op.isLt]

theorem selects_F000 (op p : Half) : ((op &&& 0xF000) == p) = decide (op.toNat / 4096 * 4096 = p.toNat) := by
  rw [beq_toNat, half_and_toNat]
  simp only [show (0xF000 : Half).toNat = 0xF000 from rfl, and_F000 _ op.isLt]

theorem selects_F00F (op p : Half) :
    ((op &&& 0xF00F) == p) = decide (op.toNat / 4096 * 4096 + op.toNat % 16 = p.toNat) := by
  rw [beq_toNat, half_and_toNat]
  simp only [show (0xF00F : Half).toNat = 0xF00F from rfl, and_F00F _ op.isLt]

theorem selects_F0FF (op p : Half) :
    ((op &&& 0xF0FF) == p) = decide (op.toNat / 4096 * 4096 + op.toNat % 256 = p.toNat) := by
  rw [beq_toNat, half_and_toNat]
  simp only [show (0xF0FF : Half).toNat = 0xF0FF from rfl, and_F0FF _ op.isLt]

/-! ### Fields as arithmetic (R71) -/

theorem fieldNnn_toNat (op : Half) : (fieldNnn op).toNat = op.toNat % 4096 := by
  simp [fieldNnn, BitVec.extractLsb'_toNat]

theorem fieldKk_toNat (op : Half) : (fieldKk op).toNat = op.toNat % 256 := by
  simp [fieldKk, BitVec.extractLsb'_toNat]

theorem fieldX_val (op : Half) : (fieldX op).val = op.toNat / 256 % 16 := by
  show (op.extractLsb' 8 4).toNat = _
  simp [BitVec.extractLsb'_toNat, Nat.shiftRight_eq_div_pow]

theorem fieldY_val (op : Half) : (fieldY op).val = op.toNat / 16 % 16 := by
  show (op.extractLsb' 4 4).toNat = _
  simp [BitVec.extractLsb'_toNat, Nat.shiftRight_eq_div_pow]

theorem fieldN_val (op : Half) : (fieldN op).val = op.toNat % 16 := by
  show (op.extractLsb' 0 4).toNat = _
  simp [BitVec.extractLsb'_toNat]

/-! ### The words the encoder builds -/

theorem formatNnn_toNat {major : Nat} (h : major < 16) (nnn : Addr) :
    (formatNnn major nnn).toNat = major * 4096 + nnn.toNat := by
  have := nnn.isLt
  simp only [formatNnn, BitVec.toNat_ofNat]; omega

theorem formatXkk_toNat {major : Nat} (h : major < 16) (x : RegIdx) (kk : Byte) :
    (formatXkk major x kk).toNat = major * 4096 + x.val * 256 + kk.toNat := by
  have := kk.isLt; have := x.isLt
  simp only [formatXkk, BitVec.toNat_ofNat]; omega

theorem formatXyn_toNat {major n : Nat} (h : major < 16) (hn : n < 16) (x y : RegIdx) :
    (formatXyn major x y n).toNat = major * 4096 + x.val * 256 + y.val * 16 + n := by
  have := x.isLt; have := y.isLt
  simp only [formatXyn, BitVec.toNat_ofNat]; omega

theorem formatX_toNat {major sub : Nat} (h : major < 16) (hs : sub < 256) (x : RegIdx) :
    (formatX major x sub).toNat = major * 4096 + x.val * 256 + sub := by
  have := x.isLt
  simp only [formatX, BitVec.toNat_ofNat]; omega

/-- The word of two bytes and the two bytes of a word are inverse (R57). -/
theorem wordOfBytes_bytesOfWord (op : Half) :
    wordOfBytes (BitVec.ofNat 8 (op.toNat / 256)) (BitVec.ofNat 8 (op.toNat % 256)) = op := by
  apply BitVec.eq_of_toNat_eq
  have := op.isLt
  simp only [wordOfBytes, BitVec.toNat_ofNat]; omega

theorem wordOfBytes_toNat (hi lo : Byte) : (wordOfBytes hi lo).toNat = hi.toNat * 256 + lo.toNat := by
  have := hi.isLt; have := lo.isLt
  simp only [wordOfBytes, BitVec.toNat_ofNat]; omega

end Sys2Proof
end

