-- ==== Sys2Proof/Laws/Memory.lean ====
section
/-!
SUPPORT. The laws of memory (20_memory.md R50 to R62): the canonical form is kept, a read returns the most recent
write, and canonical memories that read the same are the same data.
-/

namespace Sys2Proof.Machine

/-! ### The canonical form -/

theorem Memory.wfFrom_cons {lo a : Nat} {b : Byte} {m : Memory} :
    Memory.wfFrom lo ((a, b) :: m) = true ↔
      lo ≤ a ∧ a ≤ Config.lastAddr ∧ b ≠ memInitial a ∧ Memory.wfFrom (a + 1) m = true := by
  simp [Memory.wfFrom, and_assoc]

/-- A canonical memory from `hi` on is canonical from any lower address on. -/
theorem Memory.wfFrom_mono {lo hi : Nat} (h : lo ≤ hi) : ∀ {m : Memory},
    Memory.wfFrom hi m = true → Memory.wfFrom lo m = true
  | [], _ => rfl
  | (_, _) :: _, hm => by
    rw [Memory.wfFrom_cons] at hm ⊢
    exact ⟨by omega, hm.2⟩

/-- An address below the canonical form's start reads as nothing has written it. -/
theorem memRead_below {lo a : Nat} : ∀ {m : Memory}, Memory.wfFrom lo m = true → a < lo →
    memRead m a = memInitial a
  | [], _, _ => rfl
  | (k, c) :: m, hm, ha => by
    rw [Memory.wfFrom_cons] at hm
    simp only [memRead, if_neg (show k ≠ a by omega)]
    exact memRead_below hm.2.2.2 (by omega)

/-- A write in range keeps the canonical form. -/
theorem memWrite_wfFrom {lo a : Nat} (b : Byte) (hlo : lo ≤ a) (ha : a ≤ Config.lastAddr) :
    ∀ {m : Memory}, Memory.wfFrom lo m = true → Memory.wfFrom lo (memWrite m a b) = true
  | [], _ => by
    simp only [memWrite]
    split
    · rfl
    · next h => exact Memory.wfFrom_cons.2 ⟨hlo, ha, h, rfl⟩
  | (k, c) :: m, hm => by
    have hk := Memory.wfFrom_cons.1 hm
    simp only [memWrite]
    split
    · next hlt =>
      split
      · exact hm
      · next h => exact Memory.wfFrom_cons.2 ⟨hlo, ha, h, Memory.wfFrom_cons.2 ⟨by omega, hk.2⟩⟩
    · next hge =>
      split
      · next heq =>
        subst heq
        split
        · exact Memory.wfFrom_mono (by omega) hk.2.2.2
        · next h => exact Memory.wfFrom_cons.2 ⟨hlo, ha, h, hk.2.2.2⟩
      · next hne =>
        exact Memory.wfFrom_cons.2 ⟨hk.1, hk.2.1, hk.2.2.1, memWrite_wfFrom b (by omega) ha hk.2.2.2⟩

theorem memWrite_wf {m : Memory} {a : Nat} (b : Byte) (hm : m.wf = true) (ha : a ≤ Config.lastAddr) :
    (memWrite m a b).wf = true :=
  memWrite_wfFrom b (Nat.zero_le a) ha hm

/-- Writes in range keep the canonical form. -/
theorem memWriteBytes_wf : ∀ {bs : List Byte} {m : Memory} {a : Nat}, m.wf = true →
    a + bs.length ≤ Config.lastAddr + 1 → (memWriteBytes m a bs).wf = true
  | [], _, _, hm, _ => hm
  | b :: bs, m, a, hm, ha => by
    simp only [List.length_cons] at ha
    exact memWriteBytes_wf (m := memWrite m a b) (memWrite_wf b hm (by omega)) (by omega)

/-! ### Reading after writing -/

theorem memRead_memWrite_from {lo a : Nat} (v : Byte) (b : Nat) : ∀ {m : Memory}, Memory.wfFrom lo m = true →
    memRead (memWrite m a v) b = if b = a then v else memRead m b
  | [], _ => by
    simp only [memWrite]
    split
    · next h =>
      split
      · next hb => rw [hb, h]; rfl
      · rfl
    · simp only [memRead, eq_comm (a := a)]
  | (k, c) :: m, hm => by
    have hk := Memory.wfFrom_cons.1 hm
    simp only [memWrite]
    split
    · next hlt =>
      split
      · next h =>
        split
        · next hb =>
          subst hb
          rw [h, memRead, if_neg (by omega), memRead_below hk.2.2.2 (by omega)]
        · rfl
      · simp only [memRead, eq_comm (a := a)]
    · next hge =>
      split
      · next heq =>
        subst heq
        split
        · next h =>
          split
          · next hb => subst hb; rw [memRead_below hk.2.2.2 (by omega), h]
          · next hb => rw [memRead, if_neg (Ne.symm hb)]
        · simp only [memRead, eq_comm (a := a)]
          split <;> rfl
      · next hne =>
        simp only [memRead]
        rw [memRead_memWrite_from v b hk.2.2.2]
        split
        · next hkb => rw [if_neg (by omega)]
        · rfl

theorem memRead_memWrite {m : Memory} (hm : m.wf = true) (a b : Nat) (v : Byte) :
    memRead (memWrite m a v) b = if b = a then v else memRead m b :=
  memRead_memWrite_from v b hm

/-- What a sequence of byte writes leaves: the bytes written at their addresses, every other byte as before. -/
theorem memRead_memWriteBytes : ∀ {bs : List Byte} {m : Memory} {a : Nat} (b : Nat), m.wf = true →
    a + bs.length ≤ Config.lastAddr + 1 →
    memRead (memWriteBytes m a bs) b =
      if a ≤ b ∧ b < a + bs.length then bs.getD (b - a) 0 else memRead m b
  | [], m, a, b, _, _ => by
    rw [if_neg (by simp only [List.length_nil]; omega)]; rfl
  | v :: bs, m, a, b, hm, ha => by
    simp only [List.length_cons] at ha ⊢
    rw [memWriteBytes, memRead_memWriteBytes (m := memWrite m a v) b (memWrite_wf v hm (by omega)) (by omega),
      memRead_memWrite hm]
    by_cases h1 : a + 1 ≤ b ∧ b < a + 1 + bs.length
    · rw [if_pos h1, if_pos (by omega), show b - a = (b - (a + 1)) + 1 by omega, List.getD_cons_succ]
    · rw [if_neg h1]
      by_cases h2 : b = a
      · subst h2
        rw [if_pos rfl, if_pos (by omega), Nat.sub_self, List.getD_cons_zero]
      · rw [if_neg h2, if_neg (by omega)]

end Sys2Proof.Machine
end

