-- ==== Sys2Proof/Laws/Machine.lean ====
section
/-!
SUPPORT. What each shared operation of the machine can do, said once: transfers, key queries, instructions, the
core cycle, the execution task and the step.
-/

namespace Sys2Proof.Machine

/-! ### Results -/

/-- Taking a fault leaves the state R222 describes. -/
theorem takeFault_eq_faulted (s : State) (c : FaultCode) : s.takeFault c = s.faulted c := rfl

theorem raise_eq (c : FaultCode) (s : State) : raise c s = .next (s.faulted c) := rfl

@[simp] theorem thenDo_next (t : State) (f : State → State) : thenDo (.next t) f = .next (f t) := rfl

/-- A next state after `thenDo` is the update of one before it. -/
theorem thenDo_eq_next {r : Result} {f : State → State} {t : State} :
    thenDo r f = .next t ↔ ∃ u, r = .next u ∧ t = f u := by
  cases r <;> simp [thenDo, eq_comm]

/-! ### Operands (R166) -/

theorem transferInRange_iff (s : State) (len : Nat) :
    s.transferInRange len = true ↔ len = 0 ∨ s.i.toNat + len - 1 ≤ 0xFFF := by
  simp [State.transferInRange, State.effAddr]

/-- A transfer in range runs. -/
theorem withTransfer_inRange {len : Nat} {s : State} (body : State) (h : len = 0 ∨ s.i.toNat + len - 1 ≤ 0xFFF) :
    withTransfer len s body = .next body := by
  simp [withTransfer, (transferInRange_iff s len).2 h]

/-- A transfer out of range faults. -/
theorem withTransfer_outOfRange {len : Nat} {s : State} (body : State)
    (h : ¬(len = 0 ∨ s.i.toNat + len - 1 ≤ 0xFFF)) :
    withTransfer len s body = .next (s.faulted .memOutOfRange) := by
  have : s.transferInRange len = false := by
    rw [← Bool.not_eq_true, transferInRange_iff]; exact h
  simp [withTransfer, this, raise_eq]

/-- Everything a transfer can do. -/
theorem withTransfer_cases {len : Nat} {s t body : State} (h : withTransfer len s body = .next t) :
    ((len = 0 ∨ s.i.toNat + len - 1 ≤ 0xFFF) ∧ t = body) ∨
    (¬(len = 0 ∨ s.i.toNat + len - 1 ≤ 0xFFF) ∧ t = s.faulted .memOutOfRange) := by
  by_cases hr : len = 0 ∨ s.i.toNat + len - 1 ≤ 0xFFF
  · rw [withTransfer_inRange body hr] at h; cases h; exact .inl ⟨hr, rfl⟩
  · rw [withTransfer_outOfRange body hr] at h; cases h; exact .inr ⟨hr, rfl⟩

/-! ### Key queries (R200, R201) -/

theorem keyQuery_inRange {x : RegIdx} {s : State} (down : Bool) (h : (s.reg x).toNat < 16) :
    keyQuery x down s = .next (s.skipIf (s.key[(s.reg x).toNat] == down)) := by
  have h' : s.regNat x ≤ 0xF := by simp only [State.regNat]; omega
  rw [keyQuery, dif_pos h']; rfl

theorem keyQuery_outOfRange {x : RegIdx} {s : State} (down : Bool) (h : (s.reg x).toNat > 0xF) :
    keyQuery x down s = .next (s.faulted .keyIndexOutOfRange) := by
  have h' : ¬ s.regNat x ≤ 0xF := by simp only [State.regNat]; omega
  rw [keyQuery, dif_neg h']; rfl

/-- Everything a key query can do. -/
theorem keyQuery_cases {x : RegIdx} {down : Bool} {s t : State} (h : keyQuery x down s = .next t) :
    (∃ taken, t = s.skipIf taken) ∨ ((s.reg x).toNat > 0xF ∧ t = s.faulted .keyIndexOutOfRange) := by
  by_cases hr : (s.reg x).toNat < 16
  · rw [keyQuery_inRange down hr] at h; cases h; exact .inl ⟨_, rfl⟩
  · have hr : (s.reg x).toNat > 0xF := by omega
    rw [keyQuery_outOfRange down hr] at h; cases h; exact .inr ⟨hr, rfl⟩

/-! ### Call and return (R102, R103) -/

/-- Everything a call can do. -/
theorem execCall_cases {nnn : Addr} {s t : State} (h : execCall nnn s = .next t) :
    (∃ hs : s.sp.val < 16, t = { s with stack := s.stack.set s.sp.val s.pc hs,
                                        sp := ⟨s.sp.val + 1, by omega⟩, pc := zext16 nnn }) ∨
    (s.sp.val = 16 ∧ t = s.faulted .stackOverflow) := by
  simp only [execCall] at h
  split at h
  · next hs => cases h; exact .inl ⟨hs, rfl⟩
  · next hs => cases h; exact .inr ⟨by omega, rfl⟩

/-- Everything a return can do. -/
theorem execRet_cases {s t : State} (h : execRet s = .next t) :
    (∃ hs : 0 < s.sp.val, t = { s with sp := ⟨s.sp.val - 1, by omega⟩, pc := s.stack[s.sp.val - 1] + 2 }) ∨
    (s.sp.val = 0 ∧ t = s.faulted .stackUnderflow) := by
  simp only [execRet] at h
  split at h
  · next hs => cases h; exact .inl ⟨hs, rfl⟩
  · next hs => cases h; exact .inr ⟨by omega, rfl⟩

/-! ### The key wait (R206) -/

/-- Everything the search for a new key can answer. -/
theorem newKey_cases (now ref : Keys) :
    (∃ k : Fin 16, newKey now ref = some k ∧ now[k.val] = true ∧ ref[k.val] = false ∧
      ∀ j : Fin 16, j < k → ¬(now[j.val] = true ∧ ref[j.val] = false)) ∨
    (newKey now ref = none ∧ ∀ k : Fin 16, ¬(now[k.val] = true ∧ ref[k.val] = false)) := by
  cases h : newKey now ref with
  | none =>
    refine .inr ⟨rfl, fun k hk => ?_⟩
    have := List.find?_eq_none.1 h k (List.mem_finRange k)
    simp [hk] at this
  | some k =>
    refine .inl ⟨k, rfl, ?_⟩
    obtain ⟨hk, as, bs, hab, hno⟩ := List.find?_eq_some_iff_append.1 h
    simp only [Bool.and_eq_true, Bool.not_eq_true'] at hk
    refine ⟨hk.1, hk.2, fun j hj hjk => ?_⟩
    have hsorted : (as ++ k :: bs).Pairwise (· < ·) := hab ▸ List.pairwise_lt_finRange 16
    have hmem : j ∈ as ++ k :: bs := hab ▸ List.mem_finRange j
    rcases List.mem_append.1 hmem with ha | hb
    · have := hno j ha
      simp [hjk] at this
    · rcases List.mem_cons.1 hb with rfl | hb
      · exact absurd hj (lt_irrefl _)
      · have := (List.pairwise_append.1 hsorted).2.1
        have := (List.pairwise_cons.1 this).1 j hb
        exact absurd hj (not_lt_of_gt this)

/-- A key wait writes `WAIT`, the destination register and `PC`, and no other field. -/
theorem keyWaitCycle_frame (w : KeyWait) (s : State) :
    keyWaitCycle w s =
      { s with wait := (keyWaitCycle w s).wait, v := (keyWaitCycle w s).v, pc := (keyWaitCycle w s).pc } := by
  simp only [keyWaitCycle]; split <;> rfl

/-! ### Every instruction -/

/-- What no instruction touches when it does not fault: the execution task, the fault record, the lifecycle, and
the fields of the scheduler and the host. -/
structure KeepsOutside (s t : State) : Prop where
  task : t.task = s.task
  fault : t.fault = s.fault
  running : t.running = s.running
  life : t.life = s.life
  config : t.config = s.config
  key : t.key = s.key
  hostKey : t.hostKey = s.hostKey
  pub : t.pub = s.pub
  cycles : t.cycles = s.cycles
  joining : t.joining = s.joining
  frames : t.frames = s.frames
  log : t.log = s.log
  hostCalls : t.hostCalls = s.hostCalls
  replies : t.replies = s.replies

theorem KeepsOutside.skipIf (s : State) (taken : Bool) : KeepsOutside s (s.skipIf taken) := by
  rw [State.skipIf_frame]; constructor <;> rfl

/-- Everything an instruction can do outside the core's own registers, memory and screen: nothing, or fault
precisely. -/
theorem exec_cases {i : Instr} {s t : State} (h : exec i s = .next t) :
    KeepsOutside s t ∨ ∃ c, t = s.faulted c := by
  cases i with
  | call nnn =>
    rcases execCall_cases (by simpa only [exec] using h) with ⟨hs, rfl⟩ | ⟨_, rfl⟩
    · exact .inl (by constructor <;> rfl)
    · exact .inr ⟨_, rfl⟩
  | ret =>
    rcases execRet_cases (by simpa only [exec] using h) with ⟨hs, rfl⟩ | ⟨_, rfl⟩
    · exact .inl (by constructor <;> rfl)
    · exact .inr ⟨_, rfl⟩
  | seImm | sneImm | seReg | sneReg => cases h; exact .inl (KeepsOutside.skipIf _ _)
  | skp | sknp =>
    simp only [exec, execSkp, execSknp] at h
    rcases keyQuery_cases h with ⟨_, rfl⟩ | ⟨_, rfl⟩
    · exact .inl (KeepsOutside.skipIf _ _)
    · exact .inr ⟨_, rfl⟩
  | drw | ldB | storeRegs | loadRegs =>
    simp only [exec, execDrw, execLdB, execStoreRegs, execLoadRegs] at h
    cases withTransfer_cases h with
    | inl hr =>
      refine .inl ?_
      rw [hr.2]
      constructor <;> simp [State.loadBlock]
    | inr hr => exact .inr ⟨_, hr.2⟩
  | _ => cases h; exact .inl (by constructor <;> rfl)

/-! ### The core cycle (R78) -/

/-- A cycle that leaves the task alive is counted. -/
theorem countCycle_live {s : State} {slot : Nat} (h : s.task = .live slot) :
    s.countCycle = s.counted slot := by
  simp [State.countCycle, h, State.counted]

/-- A cycle that ended the task is not counted. -/
theorem countCycle_exited {s : State} (h : s.task = .exited) : s.countCycle = s := by
  simp [State.countCycle, h]

/-- Everything a not-found word can do: report, with `PC` moved or not, or report and fault. -/
theorem notFound_cases (op : Half) (s : State) :
    (s.config.unknownOpcode = .stay ∧ notFound op s = s.report op) ∨
    (s.config.unknownOpcode = .advance ∧ notFound op s = (s.report op).advance) ∨
    (s.config.unknownOpcode = .halt ∧ notFound op s = (s.report op).faulted .unknownOpcode) := by
  cases h : s.config.unknownOpcode <;> simp [notFound, h, takeFault_eq_faulted]

/-- Everything fetch and execute can do. -/
theorem fetchExecute_cases {s t : State} (h : fetchExecute s = .next t) :
    (s.pc.toNat > 0xFFE ∧ t = s.faulted .pcOutOfRange) ∨
    (s.pc.toNat ≤ 0xFFE ∧ ∃ i, decodeWord s.fetchWord = .ok i ∧ exec i s = .next t) ∨
    (s.pc.toNat ≤ 0xFFE ∧ (∃ e, decodeWord s.fetchWord = .error e) ∧ t = notFound s.fetchWord s) := by
  simp only [fetchExecute] at h
  split at h
  · next hp => cases h; exact .inl ⟨hp, rfl⟩
  · next hp =>
    have hp : s.pc.toNat ≤ 0xFFE := by simpa using hp
    cases hd : decodeWord s.fetchWord with
    | ok i => rw [hd] at h; exact .inr (.inl ⟨hp, i, rfl, h⟩)
    | error e => rw [hd] at h; cases h; exact .inr (.inr ⟨hp, ⟨e, rfl⟩, rfl⟩)

/-- Everything a core cycle can do. -/
theorem coreCycle_cases {s t : State} (h : coreCycle s = .next t) :
    (∃ w, s.wait = some w ∧ t = (keyWaitCycle w s).countCycle) ∨
    (s.wait = none ∧ ∃ u, fetchExecute s = .next u ∧ t = u.countCycle) := by
  simp only [coreCycle] at h
  split at h
  · next w hw => cases h; exact .inl ⟨w, hw, rfl⟩
  · next hw => exact .inr ⟨hw, thenDo_eq_next.1 h⟩

/-! ### The execution task and the step -/

/-- Everything a step can do. -/
theorem step_cases {s t : State} (h : step s = .next t) :
    (∃ c rest, s.hostCalls = c :: rest ∧ t = takeHostCall c { s with hostCalls := rest }) ∨
    (s.hostCalls = [] ∧ s.task = .live 0 ∧ s.running = false ∧ t = { s with task := .exited }) ∨
    (∃ slot, CycleNext s slot ∧ coreCycle s = .next t) ∨
    (∃ slot, FrameEndNext s slot ∧ t = s.endFrame) ∨
    (∃ joined rest, s.hostCalls = [] ∧ s.task = .exited ∧ s.joining = joined :: rest ∧
      t = joinReturns joined { s with joining := rest }) := by
  simp only [step, machineStep] at h
  split at h
  · next c rest hc => cases h; exact .inl ⟨c, rest, hc, rfl⟩
  · next hc =>
    simp only [machineMove] at h
    split at h
    · next slot ht =>
      simp only [taskStep] at h
      split at h
      · next hp => cases h; exact .inr (.inl ⟨hc, hp.1 ▸ ht, hp.2, rfl⟩)
      · next hp =>
        have hpoll : slot = 0 → s.running = true := fun h0 => by
          by_contra hr; exact hp ⟨h0, by simpa using hr⟩
        split at h
        · next hlt => exact .inr (.inr (.inl ⟨slot, ⟨hc, ht, hlt, hpoll⟩, h⟩))
        · next hge => cases h; exact .inr (.inr (.inr (.inl ⟨slot, ⟨hc, ht, by omega, hpoll⟩, rfl⟩)))
    · cases h
    · next ht =>
      split at h
      · next joined rest hj => cases h; exact .inr (.inr (.inr (.inr ⟨joined, rest, hc, ht, hj, rfl⟩)))
      · cases h

/-- When the next step is a core cycle, it is. -/
theorem step_of_cycleNext {s : State} {slot : Nat} (h : CycleNext s slot) : step s = coreCycle s := by
  have hp : ¬(slot = 0 ∧ s.running = false) := fun ⟨h0, hr⟩ => by simp [h.polled h0] at hr
  simp [step, machineStep, h.noCall, machineMove, h.live, taskStep, hp, h.inFrame]

/-- When the next step is a frame's end, it is. -/
theorem step_of_frameEndNext {s : State} {slot : Nat} (h : FrameEndNext s slot) : step s = .next s.endFrame := by
  have hp : ¬(slot = 0 ∧ s.running = false) := fun ⟨h0, hr⟩ => by simp [h.polled h0] at hr
  have := h.allRun
  simp [step, machineStep, h.noCall, machineMove, h.live, taskStep, hp, show ¬ slot < s.config.cyclesPerFrame by omega]

/-- When the next step is a core cycle that fetches, it fetches and executes. -/
theorem step_of_fetchNext {s : State} {slot : Nat} (h : FetchNext s slot) :
    step s = thenDo (fetchExecute s) State.countCycle := by
  rw [step_of_cycleNext h.toCycleNext, coreCycle, h.noWait]

end Sys2Proof.Machine
end

