-- ==== Sys2Proof/Laws/Framebuffer.lean ====
section
/-!
SUPPORT. The laws of the framebuffer's primitives (44_display.md R180 to R182): cells have distinct places, and
what one XORed bit does to the screen and to the flag.
-/

namespace Sys2Proof.Machine

/-- A cell that exists has a place on the screen. -/
theorem cellIndex_lt {c : Config} {r k : Nat} (hr : r < c.rows) (hk : k < c.cols) :
    cellIndex c r k < c.rows * c.cols := by
  have := Nat.mul_le_mul_right c.cols (show r + 1 ≤ c.rows from hr)
  rw [Nat.add_mul, Nat.one_mul] at this
  simp only [cellIndex]
  omega

/-- Two cells in range at one place are the same cell. -/
theorem cellIndex_inj {c : Config} {r k r' k' : Nat} (hk : k < c.cols) (hk' : k' < c.cols)
    (h : cellIndex c r k = cellIndex c r' k') : r = r' ∧ k = k' := by
  have row : ∀ {a b : Nat}, b < c.cols → cellIndex c a b / c.cols = a := fun {a b} hb => by
    rw [cellIndex, Nat.mul_comm, Nat.mul_add_div (by omega), Nat.div_eq_of_lt hb, Nat.add_zero]
  have hr : r = r' := by rw [← row (a := r) hk, h, row hk']
  subst hr
  exact ⟨rfl, by simp only [cellIndex] at h; omega⟩

/-! ### One bit -/

@[simp] theorem xorCell_length (c : Config) (row col : Nat) (b : Bool) (acc : Framebuffer × Bool) :
    (xorCell c row col b acc).1.length = acc.1.length := by
  simp [xorCell]

/-- One XORed bit toggles its own cell when it is 1, and no other. -/
theorem pixel_xorCell {c : Config} {row col r k : Nat} (b : Bool) {acc : Framebuffer × Bool}
    (hl : acc.1.length = c.rows * c.cols) (hrow : row < c.rows) (hcol : col < c.cols) (hk : k < c.cols) :
    pixel c (xorCell c row col b acc).1 r k = (pixel c acc.1 r k ^^ (decide (row = r ∧ col = k) && b)) := by
  simp only [xorCell, pixel, List.getD_eq_getElem?_getD, List.getElem?_set]
  by_cases h : row = r ∧ col = k
  · obtain ⟨rfl, rfl⟩ := h
    simp [hl, cellIndex_lt hrow hcol]
  · rw [if_neg fun he => h (cellIndex_inj hcol hk he)]
    simp [h]

/-- One XORed bit raises the flag when it is 1 and its cell was. -/
theorem xorCell_flag (c : Config) (row col : Nat) (b : Bool) (acc : Framebuffer × Bool) :
    (xorCell c row col b acc).2 = (acc.2 || (pixel c acc.1 row col && b)) := rfl

/-! ### Rows and sprites -/

@[simp] theorem xorBits_length (c : Config) (col row : Nat) (b : Byte) : ∀ (n dx : Nat) (acc : Framebuffer × Bool),
    (xorBits c col row b dx n acc).1.length = acc.1.length
  | 0, _, _ => rfl
  | n + 1, dx, acc => by rw [xorBits, xorBits_length c col row b n, xorCell_length]

@[simp] theorem xorRows_length (c : Config) (col : Nat) : ∀ (sprite : List Byte) (row : Nat)
    (acc : Framebuffer × Bool), (xorRows c col row sprite acc).1.length = acc.1.length
  | [], _, _ => rfl
  | b :: bs, row, acc => by rw [xorRows, xorRows_length c col bs, xorBits_length]

@[simp] theorem xorSprite_length (c : Config) (col row : Nat) (sprite : List Byte) (f : Framebuffer) :
    (xorSprite c col row sprite f).1.length = f.length := by
  rw [xorSprite, xorRows_length]

/-- A sprite bit by its weight in the row's byte. -/
theorem spriteBit_eq (b : Byte) (d : Nat) : spriteBit b d = decide (b.toNat / 2 ^ (7 - d) % 2 = 1) := by
  simp [spriteBit, BitVec.getLsbD, Nat.testBit_eq_decide_div_mod_eq]

end Sys2Proof.Machine
end

