-- ==== Sys2Proof/Laws/PerInstr.lean ====
section
/-!
SUPPORT. One lemma per instruction: its word selects a row of the decode table that rebuilds the instruction with
every operand (30_encoding.md R71, R74).
-/

namespace Sys2Proof.Laws.Row

/-- The encoded word selects a row of R74 whose operation, on the word's fields, is the instruction. -/
def Statement (i : Instr) : Prop :=
  ∃ r ∈ decodeTable, r.selects (encode i) = true ∧ r.build (fieldsOf (encode i)) = i

/-- A row of the table selects the words that agree with its pattern on its mask. -/
theorem of_row {i : Instr} (r : DecodeRow) (hr : r ∈ decodeTable) (hs : ((encode i &&& r.mask) == r.pattern) = true)
    (hb : r.build (fieldsOf (encode i)) = i) : Statement i :=
  ⟨r, hr, hs, hb⟩

theorem idle : Statement .idle :=
  of_row ⟨"IDLE", 0xFFFF, 0x0000, fun _ => .idle⟩ (by simp [decodeTable, rowsLow]) (by decide) rfl

theorem cls : Statement .cls :=
  of_row ⟨"CLS", 0xFFFF, 0x00E0, fun _ => .cls⟩ (by simp [decodeTable, rowsLow]) (by decide) rfl

theorem ret : Statement .ret :=
  of_row ⟨"RET", 0xFFFF, 0x00EE, fun _ => .ret⟩ (by simp [decodeTable, rowsLow]) (by decide) rfl

theorem jp (nnn : Addr) : Statement (.jp nnn) := by
  have h : (encode (.jp nnn)).toNat = _ := formatNnn_toNat (show 1 < 16 by decide) nnn
  have := nnn.isLt
  refine of_row ⟨"JP_nnn", 0xF000, 0x1000, fun f => .jp f.nnn⟩ (by simp [decodeTable, rowsLow]) ?_ ?_
  · rw [selects_F000, h]; simp only [decide_eq_true_eq]; show _ = 4096; omega
  · show Instr.jp (fieldNnn _) = _
    congr 1
    exact BitVec.eq_of_toNat_eq (by rw [fieldNnn_toNat]; omega)

theorem call (nnn : Addr) : Statement (.call nnn) := by
  have h : (encode (.call nnn)).toNat = _ := formatNnn_toNat (show 2 < 16 by decide) nnn
  have := nnn.isLt
  refine of_row ⟨"CALL_nnn", 0xF000, 0x2000, fun f => .call f.nnn⟩ (by simp [decodeTable, rowsLow]) ?_ ?_
  · rw [selects_F000, h]; simp only [decide_eq_true_eq]; show _ = 8192; omega
  · show Instr.call (fieldNnn _) = _
    congr 1
    exact BitVec.eq_of_toNat_eq (by rw [fieldNnn_toNat]; omega)

theorem seImm (x : RegIdx) (kk : Byte) : Statement (.seImm x kk) := by
  have h : (encode (.seImm x kk)).toNat = _ := formatXkk_toNat (show 3 < 16 by decide) x kk
  have := x.isLt; have := kk.isLt
  refine of_row ⟨"SE_Vx__kk", 0xF000, 0x3000, fun f => .seImm f.x f.kk⟩ (by simp [decodeTable, rowsLow]) ?_ ?_
  · rw [selects_F000, h]; simp only [decide_eq_true_eq]; show _ = 12288; omega
  · show Instr.seImm (fieldX _) (fieldKk _) = _
    congr 1
    · exact Fin.ext (by rw [fieldX_val]; omega)
    · exact BitVec.eq_of_toNat_eq (by rw [fieldKk_toNat]; omega)

theorem sneImm (x : RegIdx) (kk : Byte) : Statement (.sneImm x kk) := by
  have h : (encode (.sneImm x kk)).toNat = _ := formatXkk_toNat (show 4 < 16 by decide) x kk
  have := x.isLt; have := kk.isLt
  refine of_row ⟨"SNE_Vx__kk", 0xF000, 0x4000, fun f => .sneImm f.x f.kk⟩ (by simp [decodeTable, rowsLow]) ?_ ?_
  · rw [selects_F000, h]; simp only [decide_eq_true_eq]; show _ = 16384; omega
  · show Instr.sneImm (fieldX _) (fieldKk _) = _
    congr 1
    · exact Fin.ext (by rw [fieldX_val]; omega)
    · exact BitVec.eq_of_toNat_eq (by rw [fieldKk_toNat]; omega)

theorem seReg (x : RegIdx) (y : RegIdx) : Statement (.seReg x y) := by
  have h : (encode (.seReg x y)).toNat = _ := formatXyn_toNat (show 5 < 16 by decide) (show 0 < 16 by decide) x y
  have := x.isLt; have := y.isLt
  refine of_row ⟨"SE_Vx__Vy", 0xF00F, 0x5000, fun f => .seReg f.x f.y⟩ (by simp [decodeTable, rowsLow]) ?_ ?_
  · rw [selects_F00F, h]; simp only [decide_eq_true_eq]; show _ = 20480; omega
  · show Instr.seReg (fieldX _) (fieldY _) = _
    congr 1
    · exact Fin.ext (by rw [fieldX_val]; omega)
    · exact Fin.ext (by rw [fieldY_val]; omega)

theorem ldImm (x : RegIdx) (kk : Byte) : Statement (.ldImm x kk) := by
  have h : (encode (.ldImm x kk)).toNat = _ := formatXkk_toNat (show 6 < 16 by decide) x kk
  have := x.isLt; have := kk.isLt
  refine of_row ⟨"LD_Vx__kk", 0xF000, 0x6000, fun f => .ldImm f.x f.kk⟩ (by simp [decodeTable, rowsLow]) ?_ ?_
  · rw [selects_F000, h]; simp only [decide_eq_true_eq]; show _ = 24576; omega
  · show Instr.ldImm (fieldX _) (fieldKk _) = _
    congr 1
    · exact Fin.ext (by rw [fieldX_val]; omega)
    · exact BitVec.eq_of_toNat_eq (by rw [fieldKk_toNat]; omega)

theorem addImm (x : RegIdx) (kk : Byte) : Statement (.addImm x kk) := by
  have h : (encode (.addImm x kk)).toNat = _ := formatXkk_toNat (show 7 < 16 by decide) x kk
  have := x.isLt; have := kk.isLt
  refine of_row ⟨"ADD_Vx__kk", 0xF000, 0x7000, fun f => .addImm f.x f.kk⟩ (by simp [decodeTable, rowsLow]) ?_ ?_
  · rw [selects_F000, h]; simp only [decide_eq_true_eq]; show _ = 28672; omega
  · show Instr.addImm (fieldX _) (fieldKk _) = _
    congr 1
    · exact Fin.ext (by rw [fieldX_val]; omega)
    · exact BitVec.eq_of_toNat_eq (by rw [fieldKk_toNat]; omega)

theorem ldReg (x : RegIdx) (y : RegIdx) : Statement (.ldReg x y) := by
  have h : (encode (.ldReg x y)).toNat = _ := formatXyn_toNat (show 8 < 16 by decide) (show 0 < 16 by decide) x y
  have := x.isLt; have := y.isLt
  refine of_row ⟨"LD_Vx__Vy", 0xF00F, 0x8000, fun f => .ldReg f.x f.y⟩ (by simp [decodeTable, rowsAlu]) ?_ ?_
  · rw [selects_F00F, h]; simp only [decide_eq_true_eq]; show _ = 32768; omega
  · show Instr.ldReg (fieldX _) (fieldY _) = _
    congr 1
    · exact Fin.ext (by rw [fieldX_val]; omega)
    · exact Fin.ext (by rw [fieldY_val]; omega)

theorem orReg (x : RegIdx) (y : RegIdx) : Statement (.orReg x y) := by
  have h : (encode (.orReg x y)).toNat = _ := formatXyn_toNat (show 8 < 16 by decide) (show 1 < 16 by decide) x y
  have := x.isLt; have := y.isLt
  refine of_row ⟨"OR_Vx__Vy", 0xF00F, 0x8001, fun f => .orReg f.x f.y⟩ (by simp [decodeTable, rowsAlu]) ?_ ?_
  · rw [selects_F00F, h]; simp only [decide_eq_true_eq]; show _ = 32769; omega
  · show Instr.orReg (fieldX _) (fieldY _) = _
    congr 1
    · exact Fin.ext (by rw [fieldX_val]; omega)
    · exact Fin.ext (by rw [fieldY_val]; omega)

theorem andReg (x : RegIdx) (y : RegIdx) : Statement (.andReg x y) := by
  have h : (encode (.andReg x y)).toNat = _ := formatXyn_toNat (show 8 < 16 by decide) (show 2 < 16 by decide) x y
  have := x.isLt; have := y.isLt
  refine of_row ⟨"AND_Vx__Vy", 0xF00F, 0x8002, fun f => .andReg f.x f.y⟩ (by simp [decodeTable, rowsAlu]) ?_ ?_
  · rw [selects_F00F, h]; simp only [decide_eq_true_eq]; show _ = 32770; omega
  · show Instr.andReg (fieldX _) (fieldY _) = _
    congr 1
    · exact Fin.ext (by rw [fieldX_val]; omega)
    · exact Fin.ext (by rw [fieldY_val]; omega)

theorem xorReg (x : RegIdx) (y : RegIdx) : Statement (.xorReg x y) := by
  have h : (encode (.xorReg x y)).toNat = _ := formatXyn_toNat (show 8 < 16 by decide) (show 3 < 16 by decide) x y
  have := x.isLt; have := y.isLt
  refine of_row ⟨"XOR_Vx__Vy", 0xF00F, 0x8003, fun f => .xorReg f.x f.y⟩ (by simp [decodeTable, rowsAlu]) ?_ ?_
  · rw [selects_F00F, h]; simp only [decide_eq_true_eq]; show _ = 32771; omega
  · show Instr.xorReg (fieldX _) (fieldY _) = _
    congr 1
    · exact Fin.ext (by rw [fieldX_val]; omega)
    · exact Fin.ext (by rw [fieldY_val]; omega)

theorem addReg (x : RegIdx) (y : RegIdx) : Statement (.addReg x y) := by
  have h : (encode (.addReg x y)).toNat = _ := formatXyn_toNat (show 8 < 16 by decide) (show 4 < 16 by decide) x y
  have := x.isLt; have := y.isLt
  refine of_row ⟨"ADD_Vx__Vy", 0xF00F, 0x8004, fun f => .addReg f.x f.y⟩ (by simp [decodeTable, rowsAlu]) ?_ ?_
  · rw [selects_F00F, h]; simp only [decide_eq_true_eq]; show _ = 32772; omega
  · show Instr.addReg (fieldX _) (fieldY _) = _
    congr 1
    · exact Fin.ext (by rw [fieldX_val]; omega)
    · exact Fin.ext (by rw [fieldY_val]; omega)

theorem sub (x : RegIdx) (y : RegIdx) : Statement (.sub x y) := by
  have h : (encode (.sub x y)).toNat = _ := formatXyn_toNat (show 8 < 16 by decide) (show 5 < 16 by decide) x y
  have := x.isLt; have := y.isLt
  refine of_row ⟨"SUB_Vx__Vy", 0xF00F, 0x8005, fun f => .sub f.x f.y⟩ (by simp [decodeTable, rowsAlu]) ?_ ?_
  · rw [selects_F00F, h]; simp only [decide_eq_true_eq]; show _ = 32773; omega
  · show Instr.sub (fieldX _) (fieldY _) = _
    congr 1
    · exact Fin.ext (by rw [fieldX_val]; omega)
    · exact Fin.ext (by rw [fieldY_val]; omega)

theorem shr (x : RegIdx) (y : RegIdx) : Statement (.shr x y) := by
  have h : (encode (.shr x y)).toNat = _ := formatXyn_toNat (show 8 < 16 by decide) (show 6 < 16 by decide) x y
  have := x.isLt; have := y.isLt
  refine of_row ⟨"SHR_Vx__Vy", 0xF00F, 0x8006, fun f => .shr f.x f.y⟩ (by simp [decodeTable, rowsAlu]) ?_ ?_
  · rw [selects_F00F, h]; simp only [decide_eq_true_eq]; show _ = 32774; omega
  · show Instr.shr (fieldX _) (fieldY _) = _
    congr 1
    · exact Fin.ext (by rw [fieldX_val]; omega)
    · exact Fin.ext (by rw [fieldY_val]; omega)

theorem subn (x : RegIdx) (y : RegIdx) : Statement (.subn x y) := by
  have h : (encode (.subn x y)).toNat = _ := formatXyn_toNat (show 8 < 16 by decide) (show 7 < 16 by decide) x y
  have := x.isLt; have := y.isLt
  refine of_row ⟨"SUBN_Vx__Vy", 0xF00F, 0x8007, fun f => .subn f.x f.y⟩ (by simp [decodeTable, rowsAlu]) ?_ ?_
  · rw [selects_F00F, h]; simp only [decide_eq_true_eq]; show _ = 32775; omega
  · show Instr.subn (fieldX _) (fieldY _) = _
    congr 1
    · exact Fin.ext (by rw [fieldX_val]; omega)
    · exact Fin.ext (by rw [fieldY_val]; omega)

theorem shl (x : RegIdx) (y : RegIdx) : Statement (.shl x y) := by
  have h : (encode (.shl x y)).toNat = _ := formatXyn_toNat (show 8 < 16 by decide) (show 14 < 16 by decide) x y
  have := x.isLt; have := y.isLt
  refine of_row ⟨"SHL_Vx__Vy", 0xF00F, 0x800E, fun f => .shl f.x f.y⟩ (by simp [decodeTable, rowsAlu]) ?_ ?_
  · rw [selects_F00F, h]; simp only [decide_eq_true_eq]; show _ = 32782; omega
  · show Instr.shl (fieldX _) (fieldY _) = _
    congr 1
    · exact Fin.ext (by rw [fieldX_val]; omega)
    · exact Fin.ext (by rw [fieldY_val]; omega)

theorem sneReg (x : RegIdx) (y : RegIdx) : Statement (.sneReg x y) := by
  have h : (encode (.sneReg x y)).toNat = _ := formatXyn_toNat (show 9 < 16 by decide) (show 0 < 16 by decide) x y
  have := x.isLt; have := y.isLt
  refine of_row ⟨"SNE_Vx__Vy", 0xF00F, 0x9000, fun f => .sneReg f.x f.y⟩ (by simp [decodeTable, rowsHigh]) ?_ ?_
  · rw [selects_F00F, h]; simp only [decide_eq_true_eq]; show _ = 36864; omega
  · show Instr.sneReg (fieldX _) (fieldY _) = _
    congr 1
    · exact Fin.ext (by rw [fieldX_val]; omega)
    · exact Fin.ext (by rw [fieldY_val]; omega)

theorem ldI (nnn : Addr) : Statement (.ldI nnn) := by
  have h : (encode (.ldI nnn)).toNat = _ := formatNnn_toNat (show 10 < 16 by decide) nnn
  have := nnn.isLt
  refine of_row ⟨"LD_I__nnn", 0xF000, 0xA000, fun f => .ldI f.nnn⟩ (by simp [decodeTable, rowsHigh]) ?_ ?_
  · rw [selects_F000, h]; simp only [decide_eq_true_eq]; show _ = 40960; omega
  · show Instr.ldI (fieldNnn _) = _
    congr 1
    exact BitVec.eq_of_toNat_eq (by rw [fieldNnn_toNat]; omega)

theorem jpV0 (nnn : Addr) : Statement (.jpV0 nnn) := by
  have h : (encode (.jpV0 nnn)).toNat = _ := formatNnn_toNat (show 11 < 16 by decide) nnn
  have := nnn.isLt
  refine of_row ⟨"JP_V0__nnn", 0xF000, 0xB000, fun f => .jpV0 f.nnn⟩ (by simp [decodeTable, rowsHigh]) ?_ ?_
  · rw [selects_F000, h]; simp only [decide_eq_true_eq]; show _ = 45056; omega
  · show Instr.jpV0 (fieldNnn _) = _
    congr 1
    exact BitVec.eq_of_toNat_eq (by rw [fieldNnn_toNat]; omega)

theorem rnd (x : RegIdx) (kk : Byte) : Statement (.rnd x kk) := by
  have h : (encode (.rnd x kk)).toNat = _ := formatXkk_toNat (show 12 < 16 by decide) x kk
  have := x.isLt; have := kk.isLt
  refine of_row ⟨"RND_Vx__kk", 0xF000, 0xC000, fun f => .rnd f.x f.kk⟩ (by simp [decodeTable, rowsHigh]) ?_ ?_
  · rw [selects_F000, h]; simp only [decide_eq_true_eq]; show _ = 49152; omega
  · show Instr.rnd (fieldX _) (fieldKk _) = _
    congr 1
    · exact Fin.ext (by rw [fieldX_val]; omega)
    · exact BitVec.eq_of_toNat_eq (by rw [fieldKk_toNat]; omega)

theorem drw (x : RegIdx) (y : RegIdx) (n : Fin 16) : Statement (.drw x y n) := by
  have h : (encode (.drw x y n)).toNat = _ := formatXyn_toNat (show 13 < 16 by decide) n.isLt x y
  have := x.isLt; have := y.isLt; have := n.isLt
  refine of_row ⟨"DRW_Vx__Vy__n", 0xF000, 0xD000, fun f => .drw f.x f.y f.n⟩ (by simp [decodeTable, rowsHigh]) ?_ ?_
  · rw [selects_F000, h]; simp only [decide_eq_true_eq]; show _ = 53248; omega
  · show Instr.drw (fieldX _) (fieldY _) (fieldN _) = _
    congr 1
    · exact Fin.ext (by rw [fieldX_val]; omega)
    · exact Fin.ext (by rw [fieldY_val]; omega)
    · exact Fin.ext (by rw [fieldN_val]; omega)

theorem skp (x : RegIdx) : Statement (.skp x) := by
  have h : (encode (.skp x)).toNat = _ := formatX_toNat (show 14 < 16 by decide) (show 158 < 256 by decide) x
  have := x.isLt
  refine of_row ⟨"SKP_Vx", 0xF0FF, 0xE09E, fun f => .skp f.x⟩ (by simp [decodeTable, rowsHigh]) ?_ ?_
  · rw [selects_F0FF, h]; simp only [decide_eq_true_eq]; show _ = 57502; omega
  · show Instr.skp (fieldX _) = _
    congr 1
    exact Fin.ext (by rw [fieldX_val]; omega)

theorem sknp (x : RegIdx) : Statement (.sknp x) := by
  have h : (encode (.sknp x)).toNat = _ := formatX_toNat (show 14 < 16 by decide) (show 161 < 256 by decide) x
  have := x.isLt
  refine of_row ⟨"SKNP_Vx", 0xF0FF, 0xE0A1, fun f => .sknp f.x⟩ (by simp [decodeTable, rowsHigh]) ?_ ?_
  · rw [selects_F0FF, h]; simp only [decide_eq_true_eq]; show _ = 57505; omega
  · show Instr.sknp (fieldX _) = _
    congr 1
    exact Fin.ext (by rw [fieldX_val]; omega)

theorem ldVxDt (x : RegIdx) : Statement (.ldVxDt x) := by
  have h : (encode (.ldVxDt x)).toNat = _ := formatX_toNat (show 15 < 16 by decide) (show 7 < 256 by decide) x
  have := x.isLt
  refine of_row ⟨"LD_Vx__DT", 0xF0FF, 0xF007, fun f => .ldVxDt f.x⟩ (by simp [decodeTable, rowsMisc]) ?_ ?_
  · rw [selects_F0FF, h]; simp only [decide_eq_true_eq]; show _ = 61447; omega
  · show Instr.ldVxDt (fieldX _) = _
    congr 1
    exact Fin.ext (by rw [fieldX_val]; omega)

theorem ldVxK (x : RegIdx) : Statement (.ldVxK x) := by
  have h : (encode (.ldVxK x)).toNat = _ := formatX_toNat (show 15 < 16 by decide) (show 10 < 256 by decide) x
  have := x.isLt
  refine of_row ⟨"LD_Vx__K", 0xF0FF, 0xF00A, fun f => .ldVxK f.x⟩ (by simp [decodeTable, rowsMisc]) ?_ ?_
  · rw [selects_F0FF, h]; simp only [decide_eq_true_eq]; show _ = 61450; omega
  · show Instr.ldVxK (fieldX _) = _
    congr 1
    exact Fin.ext (by rw [fieldX_val]; omega)

theorem ldDtVx (x : RegIdx) : Statement (.ldDtVx x) := by
  have h : (encode (.ldDtVx x)).toNat = _ := formatX_toNat (show 15 < 16 by decide) (show 21 < 256 by decide) x
  have := x.isLt
  refine of_row ⟨"LD_DT__Vx", 0xF0FF, 0xF015, fun f => .ldDtVx f.x⟩ (by simp [decodeTable, rowsMisc]) ?_ ?_
  · rw [selects_F0FF, h]; simp only [decide_eq_true_eq]; show _ = 61461; omega
  · show Instr.ldDtVx (fieldX _) = _
    congr 1
    exact Fin.ext (by rw [fieldX_val]; omega)

theorem ldStVx (x : RegIdx) : Statement (.ldStVx x) := by
  have h : (encode (.ldStVx x)).toNat = _ := formatX_toNat (show 15 < 16 by decide) (show 24 < 256 by decide) x
  have := x.isLt
  refine of_row ⟨"LD_ST__Vx", 0xF0FF, 0xF018, fun f => .ldStVx f.x⟩ (by simp [decodeTable, rowsMisc]) ?_ ?_
  · rw [selects_F0FF, h]; simp only [decide_eq_true_eq]; show _ = 61464; omega
  · show Instr.ldStVx (fieldX _) = _
    congr 1
    exact Fin.ext (by rw [fieldX_val]; omega)

theorem addI (x : RegIdx) : Statement (.addI x) := by
  have h : (encode (.addI x)).toNat = _ := formatX_toNat (show 15 < 16 by decide) (show 30 < 256 by decide) x
  have := x.isLt
  refine of_row ⟨"ADD_I__Vx", 0xF0FF, 0xF01E, fun f => .addI f.x⟩ (by simp [decodeTable, rowsMisc]) ?_ ?_
  · rw [selects_F0FF, h]; simp only [decide_eq_true_eq]; show _ = 61470; omega
  · show Instr.addI (fieldX _) = _
    congr 1
    exact Fin.ext (by rw [fieldX_val]; omega)

theorem ldF (x : RegIdx) : Statement (.ldF x) := by
  have h : (encode (.ldF x)).toNat = _ := formatX_toNat (show 15 < 16 by decide) (show 41 < 256 by decide) x
  have := x.isLt
  refine of_row ⟨"LD_F__Vx", 0xF0FF, 0xF029, fun f => .ldF f.x⟩ (by simp [decodeTable, rowsMisc]) ?_ ?_
  · rw [selects_F0FF, h]; simp only [decide_eq_true_eq]; show _ = 61481; omega
  · show Instr.ldF (fieldX _) = _
    congr 1
    exact Fin.ext (by rw [fieldX_val]; omega)

theorem ldB (x : RegIdx) : Statement (.ldB x) := by
  have h : (encode (.ldB x)).toNat = _ := formatX_toNat (show 15 < 16 by decide) (show 51 < 256 by decide) x
  have := x.isLt
  refine of_row ⟨"LD_B__Vx", 0xF0FF, 0xF033, fun f => .ldB f.x⟩ (by simp [decodeTable, rowsMisc]) ?_ ?_
  · rw [selects_F0FF, h]; simp only [decide_eq_true_eq]; show _ = 61491; omega
  · show Instr.ldB (fieldX _) = _
    congr 1
    exact Fin.ext (by rw [fieldX_val]; omega)

theorem storeRegs (x : RegIdx) : Statement (.storeRegs x) := by
  have h : (encode (.storeRegs x)).toNat = _ := formatX_toNat (show 15 < 16 by decide) (show 85 < 256 by decide) x
  have := x.isLt
  refine of_row ⟨"LD__I___Vx", 0xF0FF, 0xF055, fun f => .storeRegs f.x⟩ (by simp [decodeTable, rowsMisc]) ?_ ?_
  · rw [selects_F0FF, h]; simp only [decide_eq_true_eq]; show _ = 61525; omega
  · show Instr.storeRegs (fieldX _) = _
    congr 1
    exact Fin.ext (by rw [fieldX_val]; omega)

theorem loadRegs (x : RegIdx) : Statement (.loadRegs x) := by
  have h : (encode (.loadRegs x)).toNat = _ := formatX_toNat (show 15 < 16 by decide) (show 101 < 256 by decide) x
  have := x.isLt
  refine of_row ⟨"LD_Vx___I", 0xF0FF, 0xF065, fun f => .loadRegs f.x⟩ (by simp [decodeTable, rowsMisc]) ?_ ?_
  · rw [selects_F0FF, h]; simp only [decide_eq_true_eq]; show _ = 61541; omega
  · show Instr.loadRegs (fieldX _) = _
    congr 1
    exact Fin.ext (by rw [fieldX_val]; omega)

end Sys2Proof.Laws.Row
end

