-- ==== Sys2Proof/Tests/Slice0.lean ====
section
/-!
SUPPORT. The model's own tests. Expected results are the spec's: the encodings of 30_encoding.md R74, the vectors
of 95_test_vectors.md (named in the docstrings) and the rules' own examples; then a witness for the hypotheses of
each obligation.
-/

namespace Sys2Proof.Machine.Tests

set_option Elab.async false

open Sys2Proof Sys2Proof.Machine

/-! ### Small states -/

/-- The machine after reset, about to run the word `op` at 0x200. -/
def ready (op : Nat) : State := State.reset.withFetchWord 16 op

/-- Registers from a list of numbers and values; the others hold 0. -/
def regs (l : List (Nat × Byte)) : Vector Byte 16 :=
  Vector.ofFn fun k => (l.find? fun p => p.1 == k.val).elim 0 Prod.snd

/-- Keys from a list of the numbers of those that are down. -/
def keysDown (l : List Nat) : Keys := Vector.ofFn fun k => l.contains k.val

/-- `s` with bytes in memory from `a`. -/
def withBytes (s : State) (a : Nat) (bs : List Byte) : State := s.setMem (memWriteBytes s.mem a bs)

/-- Whether the step of `s` leads to a next state in which `p` holds. -/
def after (s : State) (p : State → Bool) : Bool :=
  match step s with
  | .next t => p t
  | _ => false

/-- What `after` says. -/
theorem after_spec {s : State} {p : State → Bool} (h : after s p = true) : ∃ t, step s = .next t ∧ p t = true := by
  simp only [after] at h
  split at h
  · next t ht => exact ⟨t, ht, h⟩
  · cases h

/-- Whether executing `i` in `s` leads to a next state in which `p` holds. -/
def afterExec (i : Instr) (s : State) (p : State → Bool) : Bool :=
  match exec i s with
  | .next t => p t
  | _ => false

/-- What `afterExec` says. -/
theorem afterExec_spec {i : Instr} {s : State} {p : State → Bool} (h : afterExec i s p = true) :
    ∃ t, exec i s = .next t ∧ p t = true := by
  simp only [afterExec] at h
  split at h
  · next t ht => exact ⟨t, ht, h⟩
  · cases h

/-! ### Parameters (R6, R7) -/

/-- The values of the default parameters but for the ones given, as the check takes them. -/
def checked (rows cols : Nat) (font : List Byte) : Option Config := Config.ofValues rows cols 9 .stay font

theorem test_wf_default : checked 32 64 Config.defaultFont = some Config.default := by decide
theorem test_wf_smallest : (checked 1 1 Config.defaultFont).isSome = true := by decide
theorem test_wf_no_rows : checked 0 64 Config.defaultFont = none := by decide
theorem test_wf_no_cols : checked 32 0 Config.defaultFont = none := by decide
theorem test_wf_short_font : checked 32 64 (Config.defaultFont.drop 1) = none := by decide
theorem test_wf_instr : (Instr.drw 15 15 15).wf = true := by decide

/-- A display of the given size, the other parameters at their defaults. -/
def display (rows cols : Nat) (hr : 1 ≤ rows) (hc : 1 ≤ cols) : Config :=
  { Config.default with rows := rows, cols := cols, rows_pos := hr, cols_pos := hc }

/-- A display of one cell. -/
def oneCell : Config := display 1 1 (by decide) (by decide)

/-! ### Decoding and encoding, from the words of R74 -/

/-- Whether each word decodes to its instruction and is what that instruction encodes to. -/
def codes (l : List (Nat × Instr)) : Bool :=
  l.all fun p => decodeTableWord 16 p.1 == some p.2 && (encode p.2).toNat == p.1

theorem test_decode_control : codes
    [(0b0000000000000000, .idle), (0b0000000011101110, .ret), (0b0001101010111100, .jp 0xABC),
     (0b0010110111101111, .call 0xDEF), (0b0011000100100011, .seImm 1 0x23),
     (0b0100010001010110, .sneImm 4 0x56), (0b0101011110000000, .seReg 7 8),
     (0b1001101110100000, .sneReg 0xB 0xA), (0b1011000000010010, .jpV0 0x012)] = true := by decide +kernel

theorem test_decode_alu : codes
    [(0b0110110111111110, .ldImm 0xD 0xFE), (0b0111000111001100, .addImm 1 0xCC),
     (0b1000001000010000, .ldReg 2 1), (0b1000001000010001, .orReg 2 1), (0b1000001000010010, .andReg 2 1),
     (0b1000001000010011, .xorReg 2 1), (0b1000001000010100, .addReg 2 1), (0b1000001000010101, .sub 2 1),
     (0b1000001000010110, .shr 2 1), (0b1000001000010111, .subn 2 1), (0b1000001000011110, .shl 2 1),
     (0b1100111100001111, .rnd 0xF 0x0F)] = true := by decide +kernel

theorem test_decode_memory : codes
    [(0b1010100001110110, .ldI 0x876), (0b1111001100011110, .addI 3), (0b1111001100101001, .ldF 3),
     (0b1111001100110011, .ldB 3), (0b1111001101010101, .storeRegs 3), (0b1111001101100101, .loadRegs 3)]
    = true := by decide +kernel

theorem test_decode_display : codes [(0b0000000011100000, .cls), (0b1101000100100011, .drw 1 2 3)] = true := by
  decide +kernel

theorem test_decode_keypad : codes
    [(0b1110010110011110, .skp 5), (0b1110010110100001, .sknp 5), (0b1111010100000111, .ldVxDt 5),
     (0b1111010100001010, .ldVxK 5), (0b1111010100010101, .ldDtVx 5), (0b1111010100011000, .ldStVx 5)]
    = true := by decide +kernel

/-- R76: one word of each not-found line. -/
theorem test_decode_not_found :
    [0x0123, 0x00E1, 0x5121, 0x8008, 0x800D, 0x800F, 0x9121, 0xE09F, 0xF000, 0xF0FF].all
      (fun w => decodeTableWord 16 w == none) = true := by decide +kernel

theorem test_decode_truncated : decode [0x12] = .error .truncated := by decide +kernel

/-- R80: the assembler notation. -/
theorem test_asm : (Instr.drw 1 2 5).asm = "DRW V1, V2, 0x5" ∧ (Instr.addImm 0 1).asm = "ADD V0, 0x01" := by
  decide +kernel

/-- R80: a one-operand shift assembles with `y = 0`; data words and bytes. -/
theorem test_asm_lines :
    assemble [.shrOne 4, .shlOne 4, .dw 0x5121, .db 0x2A] = [0x84, 0x06, 0x84, 0x0E, 0x51, 0x21, 0x2A] ∧
    (AsmLine.dw 0x5121).text = "DW 0x5121" ∧ (AsmLine.shrOne 4).text = "SHR V4" := by decide +kernel

/-- L3-1: the image bytes of the counting loop. -/
theorem test_assemble :
    assemble [.instr (.ldImm 0 0), .instr (.addImm 0 1), .instr (.seImm 0 5), .instr (.jp 0x202), .dw 0x1208]
      = [0x60, 0x00, 0x70, 0x01, 0x30, 0x05, 0x12, 0x02, 0x12, 0x08] := by decide +kernel

/-! ### Memory -/

/-- Writing what an unlisted byte reads as leaves nothing listed; the order of writes does not show. -/
theorem test_memory_canonical :
    memWrite (memWrite [] 0x300 7) 0x300 0 = [] ∧ memWrite [] 0x050 0xF0 = [] ∧
    memWrite (memWrite [] 0x301 1) 0x300 2 = memWrite (memWrite [] 0x300 2) 0x301 1 ∧
    (memWrite (memWrite [] 0x301 1) 0x300 2).wf = true := by decide +kernel

theorem test_memory_not_canonical :
    Memory.wf [(0x301, 1), (0x300, 1)] = false ∧ Memory.wf [(0x300, 0)] = false ∧ Memory.wf [(0x1000, 1)] = false := by
  decide +kernel

/-- L2-S9. -/
theorem test_font :
    memReadBytes State.reset.mem 0x050 5 = [0xF0, 0x90, 0x90, 0x90, 0xF0] ∧
    memReadBytes State.reset.mem 0x09B 5 = [0xF0, 0x80, 0xF0, 0x80, 0x80] := by decide +kernel

/-! ### Control flow -/

/-- L2-C1. -/
theorem test_idle : after (ready 0x0000) (fun t => t.pc == 0x200 && t.cycles == 1 && t.log == []) = true := by
  decide +kernel

/-- L2-C2. -/
theorem test_jp : after (ready 0x1234) (fun t => t.pc == 0x234) = true := by decide +kernel

/-- L2-C5. -/
theorem test_call : after (ready 0x2ABC) (fun t => t.stack[0] == 0x200 && t.sp == 1 && t.pc == 0xABC) = true := by
  decide +kernel

/-- L2-C6. -/
theorem test_call_overflow : after { ready 0x2ABC with sp := 16 }
    (fun t => t.fault == some .stackOverflow && t.sp == 16 && t.pc == 0x200 && !t.running && t.life == .stopped &&
      t.cycles == 0) = true := by decide +kernel

/-- L2-C9. -/
theorem test_ret : after { ready 0x00EE with sp := 1, stack := (ready 0).stack.set 0 0x0FFE }
    (fun t => t.sp == 0 && t.pc == 0x1000 && t.stack[0] == 0x0FFE) = true := by decide +kernel

/-- L2-C8. -/
theorem test_ret_underflow : after (ready 0x00EE)
    (fun t => t.fault == some .stackUnderflow && t.sp == 0 && t.pc == 0x200) = true := by decide +kernel

/-- L2-C10, L2-C11. -/
theorem test_se_imm :
    (after { ready 0x3342 with v := regs [(3, 0x42)] } (fun t => t.pc == 0x204) &&
     after { ready 0x3342 with v := regs [(3, 0x41)] } (fun t => t.pc == 0x202)) = true := by decide +kernel

/-- L2-C13, L2-C14. -/
theorem test_sne_imm :
    (after { ready 0x4342 with v := regs [(3, 0x42)] } (fun t => t.pc == 0x202) &&
     after (ready 0x4342) (fun t => t.pc == 0x204)) = true := by decide +kernel

/-- L2-C15, L2-C16. -/
theorem test_se_reg :
    (after { ready 0x5120 with v := regs [(1, 7), (2, 7)] } (fun t => t.pc == 0x204) &&
     after { ready 0x5120 with v := regs [(1, 7), (2, 8)] } (fun t => t.pc == 0x202)) = true := by decide +kernel

/-- L2-C18, L2-C19. -/
theorem test_sne_reg :
    (after { ready 0x9120 with v := regs [(1, 7), (2, 8)] } (fun t => t.pc == 0x204) &&
     after (ready 0x9110) (fun t => t.pc == 0x202)) = true := by decide +kernel

/-- L2-C21, L2-C22. -/
theorem test_jp_v0 :
    (after { ready 0xBFFF with v := regs [(0, 0xFF)] } (fun t => t.pc == 0x10FE) &&
     after { ready 0xB200 with v := regs [(0, 1), (5, 0x77)] } (fun t => t.pc == 0x201)) = true := by decide +kernel

/-- L2-C23: an odd `PC` fetches across a word boundary. -/
theorem test_odd_fetch : after { withBytes (ready 0x0000) 0x201 [0x60, 0x2A] with pc := 0x201 }
    (fun t => t.reg 0 == 0x2A && t.pc == 0x203) = true := by decide +kernel

/-- L2-C3: the cycle after `1FFF`. -/
theorem test_fetch_out_of_range : after { ready 0x0000 with pc := 0x0FFF }
    (fun t => t.fault == some .pcOutOfRange && t.pc == 0x0FFF && t.cycles == 0) = true := by decide +kernel

/-! ### Not-found words: L2-N1 to L2-N3 -/

/-- `5121` at 0x200 under a policy. -/
def notFoundUnder (p : UnknownOpcodePolicy) : State :=
  { ready 0x5121 with config := { Config.default with unknownOpcode := p } }

theorem test_not_found_stay : after (notFoundUnder .stay)
    (fun t => t.log == [⟨0x5121, 0x200⟩] && t.pc == 0x200 && t.cycles == 1) = true := by decide +kernel
theorem test_not_found_advance : after (notFoundUnder .advance)
    (fun t => t.log == [⟨0x5121, 0x200⟩] && t.pc == 0x202 && t.cycles == 1) = true := by decide +kernel
theorem test_not_found_halt : after (notFoundUnder .halt)
    (fun t => t.log == [⟨0x5121, 0x200⟩] && t.pc == 0x200 && t.cycles == 0 && t.fault == some .unknownOpcode)
    = true := by decide +kernel

/-! ### Registers -/

/-- L2-A2. -/
theorem test_ld_imm : after (ready 0x6F12) (fun t => t.reg 15 == 0x12 && t.pc == 0x202) = true := by decide +kernel
/-- L2-A3. -/
theorem test_ld_reg : after { ready 0x8120 with v := regs [(2, 0x99)] } (fun t => t.reg 1 == 0x99) = true := by
  decide +kernel
/-- L2-A4. -/
theorem test_add_imm : after { ready 0x70FF with v := regs [(0, 2), (15, 0x55)] }
    (fun t => t.reg 0 == 1 && t.reg 15 == 0x55) = true := by decide +kernel
/-- L1-1. -/
theorem test_add_reg : after { ready 0x8124 with v := regs [(1, 0xFF), (2, 1)] }
    (fun t => t.reg 1 == 0 && t.reg 15 == 1) = true := by decide +kernel
/-- L2-A8, L2-A9. -/
theorem test_add_reg_flag_operand :
    (after { ready 0x8F14 with v := regs [(15, 0xFF), (1, 1)] } (fun t => t.reg 15 == 1) &&
     after { ready 0x81F4 with v := regs [(15, 1), (1, 0x10)] } (fun t => t.reg 1 == 0x11 && t.reg 15 == 0))
    = true := by decide +kernel
/-- L1-2. -/
theorem test_sub : after { ready 0x8125 with v := regs [(1, 5), (2, 0xA)] }
    (fun t => t.reg 1 == 0xFB && t.reg 15 == 0) = true := by decide +kernel
/-- L2-A10. -/
theorem test_sub_equal : after { ready 0x8015 with v := regs [(0, 0x33), (1, 0x33)] }
    (fun t => t.reg 0 == 0 && t.reg 15 == 1) = true := by decide +kernel
/-- L2-A13. -/
theorem test_subn : after { ready 0x8017 with v := regs [(0, 5), (1, 0xA)] }
    (fun t => t.reg 0 == 5 && t.reg 15 == 1) = true := by decide +kernel
/-- L2-A14. -/
theorem test_subn_borrow : after { ready 0x8017 with v := regs [(0, 0xA), (1, 5)] }
    (fun t => t.reg 0 == 0xFB && t.reg 15 == 0) = true := by decide +kernel
/-- L2-A18. -/
theorem test_shr : after { ready 0x8016 with v := regs [(0, 0xFE), (1, 0xFF)] }
    (fun t => t.reg 0 == 0x7F && t.reg 15 == 0) = true := by decide +kernel
/-- L2-A19. -/
theorem test_shr_flag_operand : after { ready 0x8F06 with v := regs [(15, 3)] } (fun t => t.reg 15 == 1) = true := by
  decide +kernel
/-- L2-A20. -/
theorem test_shl : after { ready 0x800E with v := regs [(0, 0x80)] } (fun t => t.reg 0 == 0 && t.reg 15 == 1)
    = true := by decide +kernel
/-- L2-A21. -/
theorem test_shl_no_carry : after { ready 0x800E with v := regs [(0, 0x7F)] }
    (fun t => t.reg 0 == 0xFE && t.reg 15 == 0) = true := by decide +kernel
/-- L2-A24. -/
theorem test_or : after { ready 0x8121 with v := regs [(1, 0x0F), (2, 0xF0), (15, 0x55)] }
    (fun t => t.reg 1 == 0xFF && t.reg 15 == 0x55) = true := by decide +kernel
/-- L2-A25. -/
theorem test_and : after { ready 0x8122 with v := regs [(1, 0x3C), (2, 0x0F)] } (fun t => t.reg 1 == 0x0C) = true := by
  decide +kernel
/-- L2-A26. -/
theorem test_xor : after { ready 0x8123 with v := regs [(1, 0xFF), (2, 0x0F)] } (fun t => t.reg 1 == 0xF0) = true := by
  decide +kernel
/-- L2-A29: a mask of 0 gives 0 whatever the draw. -/
theorem test_rnd (s : State) : ∃ t, exec (.rnd 3 0x00) s = .next t ∧ t.reg 3 = 0 := ⟨_, rfl, by simp⟩

/-! ### Index register and memory -/

/-- L2-I1. -/
theorem test_ld_i : after (ready 0xAFFF) (fun t => t.i == 0xFFF) = true := by decide +kernel
/-- L2-I2, L2-I3. -/
theorem test_add_i :
    (after { ready 0xF01E with i := 0xFFF, v := regs [(0, 1)] } (fun t => t.i == 0x1000 && t.reg 15 == 0) &&
     after { ready 0xF01E with i := 0xFFFF, v := regs [(0, 1)] } (fun t => t.i == 0)) = true := by decide +kernel
/-- L1-6, L2-I7. -/
theorem test_ld_f :
    (after { ready 0xF429 with v := regs [(4, 0xA)] } (fun t => t.i == 0x82) &&
     after { ready 0xF029 with v := regs [(0, 0xFF)] } (fun t => t.i == 0x54B)) = true := by decide +kernel
/-- L1-7. -/
theorem test_ld_b : after { ready 0xF233 with i := 0x300, v := regs [(2, 157)] }
    (fun t => memReadBytes t.mem 0x300 4 == [1, 5, 7, 0] && t.i == 0x300) = true := by decide +kernel
/-- L2-I12. -/
theorem test_ld_b_out_of_range : after { ready 0xF033 with i := 0xFFE, v := regs [(0, 0x7B)] }
    (fun t => t.fault == some .memOutOfRange && t.mem == (ready 0xF033).mem && t.pc == 0x200) = true := by
  decide +kernel
/-- L2-I13. -/
theorem test_store_regs : after { ready 0xF255 with i := 0x300, v := regs [(0, 1), (1, 2), (2, 3), (3, 4)] }
    (fun t => memReadBytes t.mem 0x300 4 == [1, 2, 3, 0] && t.i == 0x300) = true := by decide +kernel
/-- L2-I15. -/
theorem test_store_regs_out_of_range : after { ready 0xFF55 with i := 0xFF1 }
    (fun t => t.fault == some .memOutOfRange && t.mem == (ready 0xFF55).mem) = true := by decide +kernel
/-- L2-I17. -/
theorem test_load_regs : after { withBytes (ready 0xF165) 0x300 [0xAA, 0xBB, 0xCC] with i := 0x300 }
    (fun t => t.reg 0 == 0xAA && t.reg 1 == 0xBB && t.reg 2 == 0 && t.i == 0x300) = true := by decide +kernel
/-- L2-I20. -/
theorem test_load_regs_out_of_range : after { ready 0xF165 with i := 0xFFF }
    (fun t => t.fault == some .memOutOfRange && t.reg 0 == 0) = true := by decide +kernel

/-! ### Display -/

/-- L1-4. -/
theorem test_drw_wraps : after { withBytes (ready 0xD011) 0x300 [0xFF] with i := 0x300, v := regs [(0, 63)] }
    (fun t => (t.fb.take 8 == [true, true, true, true, true, true, true, false]) &&
      pixel t.config t.fb 0 63 && t.fb.count true == 8 && t.reg 15 == 0 && t.pc == 0x202) = true := by decide +kernel

/-- L2-D1, L2-D7: a lit pixel erased; the old `VF` is the column. -/
theorem test_drw_flag :
    (after { withBytes (ready 0xD011) 0x300 [0x80] with i := 0x300, fb := (ready 0).fb.set 0 true }
       (fun t => t.fb.count true == 0 && t.reg 15 == 1) &&
     after { withBytes (ready 0xDF11) 0x300 [0x80] with i := 0x300, v := regs [(15, 5), (1, 2)] }
       (fun t => pixel t.config t.fb 2 5 && t.fb.count true == 1 && t.reg 15 == 0)) = true := by decide +kernel

/-- L2-D11. -/
theorem test_cls : after { ready 0x00E0 with fb := clearScreen Config.default true, v := regs [(15, 9)] }
    (fun t => t.fb == blankScreen Config.default && t.reg 15 == 9 && t.pc == 0x202) = true := by decide +kernel

/-- R184: column first; out of range is a programming error. -/
theorem test_pixel_at :
    pixelAt Config.default ((blankScreen Config.default).set 64 true) 0 1 = some true ∧
    pixelAt Config.default (blankScreen Config.default) 64 0 = none ∧
    pixelAt Config.default (blankScreen Config.default) 63 31 = some false ∧
    pixelAt Config.default (blankScreen Config.default) 0 32 = none := by decide +kernel

/-- R182: a cell that held 1 under a sprite bit 1 holds 0 after the first draw, so the second draw erases nothing
and its flag is false: R188's gloss "whatever it held before" does not follow (log entry 11). -/
theorem test_drawing_twice_over_lit_cell :
    xorSprite Config.default 0 0 [0x80] ((blankScreen Config.default).set 0 true) = (blankScreen Config.default, true) ∧
    (xorSprite Config.default 0 0 [0x80] (blankScreen Config.default)).2 = false := by decide +kernel

/-! ### Timers and keypad -/

/-- L2-K1, L2-K2. -/
theorem test_skp :
    (after { ready 0xE09E with v := regs [(0, 5)], key := keysDown [5] } (fun t => t.pc == 0x204) &&
     after { ready 0xE09E with v := regs [(0, 5)] } (fun t => t.pc == 0x202)) = true := by decide +kernel
/-- L2-K3. -/
theorem test_skp_out_of_range : after { ready 0xE09E with v := regs [(0, 0x10)] }
    (fun t => t.fault == some .keyIndexOutOfRange && t.pc == 0x200) = true := by decide +kernel
/-- L2-K4, L2-K5. -/
theorem test_sknp :
    (after { ready 0xE1A1 with v := regs [(1, 5)], key := keysDown [5] } (fun t => t.pc == 0x202) &&
     after { ready 0xE1A1 with v := regs [(1, 5)] } (fun t => t.pc == 0x204)) = true := by decide +kernel
/-- L2-K6. -/
theorem test_sknp_out_of_range : after { ready 0xE1A1 with v := regs [(1, 0xFF)] }
    (fun t => t.fault == some .keyIndexOutOfRange) = true := by decide +kernel
/-- L2-K8. -/
theorem test_ld_vx_dt : after { ready 0xF307 with dt := 0x3C } (fun t => t.reg 3 == 0x3C) = true := by decide +kernel
/-- L2-K9. -/
theorem test_ld_dt_vx : after { ready 0xF315 with v := regs [(3, 5)] } (fun t => t.dt == 5) = true := by
  decide +kernel
/-- L2-K10. -/
theorem test_ld_st_vx : after { ready 0xF318 with v := regs [(3, 2)] } (fun t => t.st == 2 && t.soundOn) = true := by
  decide +kernel
/-- L2-K14. -/
theorem test_ld_vx_k : after { ready 0xF50A with pc := 0x200 }
    (fun t => t.wait == some ⟨5, noKeys⟩ && t.pc == 0x200 && t.reg 5 == 0) = true := by decide +kernel
/-- L2-K18, L2-K16: the lowest new key; a key held since the wait began is not new. -/
theorem test_key_wait :
    (after { ready 0xF00A with wait := some ⟨0, noKeys⟩, key := keysDown [0xA, 3] }
       (fun t => t.reg 0 == 3 && t.wait == none && t.pc == 0x202 && t.cycles == 1) &&
     after { ready 0xF00A with wait := some ⟨0, keysDown [2]⟩, key := keysDown [2] }
       (fun t => t.reg 0 == 0 && t.wait == some ⟨0, keysDown [2]⟩ && t.pc == 0x200 && t.cycles == 1)) = true := by
  decide +kernel

/-! ### Frames and lifecycle -/

/-- A running machine whose frame's nine cycles are done. -/
def frameDone : State := { ready 0x1200 with task := .live 9, cycles := 9 }

/-- L1-8, L2-K11, L2-D13. -/
theorem test_frame_end : after { frameDone with dt := 5, st := 1, fb := clearScreen Config.default true,
                                                hostKey := keysDown [7] }
    (fun t => t.dt == 4 && t.st == 0 && !t.soundOn && t.pub == t.fb && t.key == keysDown [7] && t.frames == 1 &&
      t.cycles == 9 && t.task == .live 0) = true := by decide +kernel

/-- L2-K12. -/
theorem test_timers_stay_zero : after frameDone (fun t => t.dt == 0 && t.st == 0) = true := by decide +kernel

/-- L2-S5: one byte too many. -/
theorem test_create_too_long (image : List Byte) (h : image.length = 3585) :
    create ⟨Config.default, true, some image⟩ = .error .ioError := by
  simp [create, loadProgram, h]

/-- L2-S4: the longest image is accepted. -/
theorem test_create_longest (image : List Byte) (h : image.length = 3584) :
    ∃ s, create ⟨Config.default, true, some image⟩ = .ok s := by
  simp [create, loadProgram, h]

/-- R40, R260: the machine created from an empty image is the reset state. -/
theorem test_create_empty : create ⟨Config.default, true, some []⟩ = .ok State.reset := by decide +kernel

/-- L2-S6: `start()` from `Idle`. -/
theorem test_start : after { State.reset with hostCalls := [.start true] }
    (fun t => t.running && t.life == .running && t.task == .live 0 && t.replies == [.done]) = true := by
  decide +kernel

/-- L2-S7, L1-9 (b): calls that the lifecycle does not allow. -/
theorem test_invalid_state :
    (after { ready 0x1200 with hostCalls := [.start true] }
       (fun t => t.replies == [.error .invalidState] && t.life == .running) &&
     after { State.reset with hostCalls := [.stop true] }
       (fun t => t.replies == [.error .invalidState] && t.life == .idle)) = true := by decide +kernel

/-- R263: a machine that has not been started runs nothing. -/
theorem test_not_started : step State.reset = .fault .notStarted := by rfl

/-! ### Witnesses: states and operands that meet the obligations' hypotheses -/

/-- A frame's first cycle is next in `ready op`, and it fetches. -/
theorem ready_fetchNext (op : Nat) : FetchNext (ready op) 0 :=
  ⟨⟨rfl, rfl, by show 0 < 9; decide, fun _ => rfl⟩, rfl, by show (0x200 : Half).toNat ≤ 0xFFE; decide⟩

theorem ready_cycleNext (op : Nat) : CycleNext (ready op) 0 := (ready_fetchNext op).toCycleNext

theorem frameDone_next : FrameEndNext frameDone 9 := ⟨rfl, rfl, by decide, by simp⟩

theorem ready_lifecycleOk (op : Nat) : LifecycleOk (ready op) :=
  ⟨by simp [ready, State.withFetchWord, placeWord], fun _ _ => ⟨rfl, rfl⟩, fun _ => ⟨0, rfl⟩, fun h => absurd rfl h,
    fun h => absurd rfl h⟩

theorem ready_pcOk (op : Nat) : PcOk (ready op) :=
  ⟨by show (0x200 : Half).toNat ≤ 0x10FE; decide, by show ∀ k (h : k < 16), ((Vector.replicate 16 (0 : Half))[k]).toNat ≤ 0xFFE; simp,
    fun h => absurd rfl h⟩

theorem ready_frameCountOk (op : Nat) : FrameCountOk (ready op) := ⟨Nat.zero_le _, rfl⟩

theorem ready_memory_wf : (ready 0x6A2F).mem.wf = true := by decide +kernel

theorem ready_dataOk : DataOk (ready 0x6A2F) := ⟨ready_memory_wf, by decide +kernel, by decide +kernel⟩

/-- A stopped machine with a recorded fault and a pending `stop()` call. -/
def faultedMachine : State :=
  { State.reset with fault := some .memOutOfRange, life := .stopped, task := .exited, hostCalls := [.stop true] }

theorem faultedMachine_lifecycleOk : LifecycleOk faultedMachine :=
  ⟨by simp [faultedMachine], by simp [faultedMachine], by simp [faultedMachine, State.reset],
    fun _ => ⟨rfl, rfl⟩, fun h => absurd rfl h⟩

/-! #### Encoding -/

theorem witness_DecodeThenEncodeReturnsWord : decodeWord 0x6A2F = .ok (.ldImm 0xA 0x2F) := by decide +kernel

theorem witness_TableRowsAreDisjoint : ∃ r ∈ decodeTable, (0x6A2F : Half) &&& r.mask = r.pattern :=
  ⟨⟨"LD_Vx__kk", 0xF000, 0x6000, fun f => .ldImm f.x f.kk⟩, by simp [decodeTable, rowsLow], by decide⟩

/-! #### The core cycle -/

theorem witness_StepRunsDecodedInstruction :
    FetchNext (ready 0x6A2F) 0 ∧ decode (fetchedBytes (ready 0x6A2F)) = .ok (.ldImm 0xA 0x2F, []) :=
  ⟨ready_fetchNext _, by decide +kernel⟩

/-- An instruction that faults, run at the highest address a fetch accepts. -/
theorem witness_StepRunsDecodedInstruction_fault :
    FetchNext { withBytes (ready 0x0000) 0xFFE [0x00, 0xEE] with pc := 0xFFE } 0 ∧
    decode (fetchedBytes { withBytes (ready 0x0000) 0xFFE [0x00, 0xEE] with pc := 0xFFE }) = .ok (.ret, []) :=
  ⟨⟨⟨rfl, rfl, by decide, fun _ => rfl⟩, rfl, by decide⟩, by decide +kernel⟩

theorem witness_FetchBeyondMemoryFaults :
    CycleNext { ready 0x0000 with pc := 0xFFF } 0 ∧ (ready 0x0000).wait = none ∧ 0xFFE < (0xFFF : Half).toNat :=
  ⟨⟨rfl, rfl, by decide, fun _ => rfl⟩, rfl, by decide⟩

theorem witness_NotFoundWordFollowsPolicy (p : UnknownOpcodePolicy) :
    FetchNext (notFoundUnder p) 0 ∧ (notFoundUnder p).config.unknownOpcode = p ∧
    decode (fetchedBytes (notFoundUnder p)) = .error .unknownSkipEqual ∧
    (0x5121 : Half).toNat = (memRead (notFoundUnder p).mem (notFoundUnder p).pc.toNat).toNat * 256 +
      (memRead (notFoundUnder p).mem ((notFoundUnder p).pc.toNat + 1)).toNat := by
  refine ⟨⟨⟨rfl, rfl, ?_, fun _ => rfl⟩, rfl, ?_⟩, rfl, ?_, ?_⟩ <;> cases p <;> decide +kernel

/-- The lowest and the highest key, each the only new one, and no new key. -/
theorem witness_KeyWaitCycleTakesLowestNewKey :
    CycleNext { ready 0xF00A with wait := some ⟨0, noKeys⟩ } 0 ∧
    ((keysDown [0])[0] = true ∧ noKeys[0] = false) ∧
    ((keysDown [15])[15] = true ∧ noKeys[15] = false ∧
      ∀ j : Fin 16, j < 15 → ¬((keysDown [15])[j] = true ∧ noKeys[j] = false)) ∧
    (∀ k : Fin 16, ¬((keysDown [2])[k] = true ∧ (keysDown [2])[k] = false)) ∧
    FrameEndNext { frameDone with wait := some ⟨0, noKeys⟩ } 9 :=
  ⟨⟨rfl, rfl, by decide, fun _ => rfl⟩, by decide +kernel, by decide +kernel, by simp,
    ⟨rfl, rfl, by decide, by simp⟩⟩

theorem witness_EveryCycleCountsUnlessItFaults :
    CycleNext (ready 0x6A2F) 0 ∧ (ready 0x6A2F).fault = none ∧
    CycleNext (ready 0x00EE) 0 ∧ (ready 0x00EE).fault = none :=
  ⟨ready_cycleNext _, rfl, ready_cycleNext _, rfl⟩

theorem witness_FaultsArePrecise :
    ((ready 0x00EE).fault = none ∧ (ready 0x00EE).hostCalls = [] ∧
      ∃ t, step (ready 0x00EE) = .next t ∧ (t.fault == some .stackUnderflow) = true) ∧
    ((notFoundUnder .halt).fault = none ∧ (notFoundUnder .halt).hostCalls = [] ∧
      ∃ t, step (notFoundUnder .halt) = .next t ∧ (t.fault == some .unknownOpcode) = true) :=
  ⟨⟨rfl, rfl, after_spec (p := fun t => t.fault == some .stackUnderflow) (by decide +kernel)⟩,
   ⟨rfl, rfl, after_spec (p := fun t => t.fault == some .unknownOpcode) (by decide +kernel)⟩⟩

/-- Each fault's cause at its boundary, and the last case without a fault. -/
theorem witness_EachFaultHasItsCause :
    faultOf (.call 0) { State.reset with sp := 16 } = some .stackOverflow ∧
    faultOf (.call 0) { State.reset with sp := 15 } = none ∧
    faultOf .ret State.reset = some .stackUnderflow ∧ faultOf .ret { State.reset with sp := 1 } = none ∧
    faultOf (.ldB 0) { State.reset with i := 0xFFE } = some .memOutOfRange ∧
    faultOf (.ldB 0) { State.reset with i := 0xFFD } = none ∧
    faultOf (.storeRegs 15) { State.reset with i := 0xFF1 } = some .memOutOfRange ∧
    faultOf (.loadRegs 15) { State.reset with i := 0xFF0 } = none ∧
    faultOf (.drw 0 0 1) { State.reset with i := 0x1000 } = some .memOutOfRange ∧
    faultOf (.drw 0 0 0) { State.reset with i := 0xFFFF } = none ∧
    faultOf (.skp 0) { State.reset with v := regs [(0, 16)] } = some .keyIndexOutOfRange ∧
    faultOf (.sknp 0) { State.reset with v := regs [(0, 15)] } = none := by decide +kernel

theorem witness_EachFaultHasItsCause_next : State.reset.fault = none ∧
    ∃ t, exec (.call 0) State.reset = .next t ∧ (t.fault == none) = true :=
  ⟨rfl, afterExec_spec (p := fun t => t.fault == none) (by decide +kernel)⟩

/-! #### Control flow -/

theorem witness_IdleChangesNothing : FetchNext (ready 0x0000) 0 ∧ fetchedBytes (ready 0x0000) = [0, 0] :=
  ⟨ready_fetchNext _, by decide +kernel⟩

theorem witness_CallPushesItsOwnAddress :
    ({ State.reset with sp := 15 } : State).sp.val < 16 ∧ ({ State.reset with sp := 16 } : State).sp.val = 16 := by
  decide +kernel

theorem witness_ReturnPopsAndAddsTwo :
    0 < ({ State.reset with sp := 1 } : State).sp.val ∧ 0 < ({ State.reset with sp := 16 } : State).sp.val ∧
    State.reset.sp.val = 0 ∧ ({ State.reset with sp := 15 } : State).sp.val < 16 := by decide +kernel

theorem witness_EveryInstructionAdvancesPcByItsColumn :
    (ready 0x6A2F).fault = none ∧ PcOk (ready 0x6A2F) ∧ (ready 0x6A2F).pc.toNat ≤ 0xFFE ∧
    ∃ t, exec (.ldImm 0xA 0x2F) (ready 0x6A2F) = .next t ∧ (t.fault == none) = true :=
  ⟨rfl, ready_pcOk _, by decide, afterExec_spec (p := fun t => t.fault == none) (by decide +kernel)⟩

/-! #### Registers, index register and memory -/

/-- The result clause of the flag writers holds for a destination other than `VF`. -/
theorem witness_flag_writers_destination : (0 : RegIdx) ≠ 0xF ∧ (14 : RegIdx) ≠ 0xF := by decide

theorem witness_OnlyNamedRegistersAndFlagChange :
    isDest (.addReg 1 2) 3 = false ∧ (3 : RegIdx) ≠ 0xF ∧ isDest (.addImm 1 2) 15 = false ∧
    writesFlag (.addImm 1 2) = false ∧ isDest (.loadRegs 3) 4 = false ∧
    ∃ t, exec (.addReg 1 2) State.reset = .next t ∧ (t.fault == none) = true :=
  ⟨by decide, by decide, by decide, rfl, by decide, afterExec_spec (p := fun t => t.fault == none) (by decide +kernel)⟩

/-- One state for each field, in which its writer changes it, and a state whose instruction faults. -/
theorem witness_EachFieldHasItsWriters :
    (afterExec (.ldImm 0 1) State.reset (fun t => t.v != State.reset.v && t.pc != State.reset.pc) &&
     afterExec (.ldI 1) State.reset (fun t => t.i != State.reset.i) &&
     afterExec (.ldB 0) { State.reset with i := 0x300, v := regs [(0, 1)] } (fun t => t.mem != State.reset.mem) &&
     afterExec (.call 0) State.reset (fun t => t.stack != State.reset.stack && t.sp != State.reset.sp) &&
     afterExec (.ldDtVx 0) { State.reset with v := regs [(0, 1)] } (fun t => t.dt != State.reset.dt) &&
     afterExec (.ldStVx 0) { State.reset with v := regs [(0, 1)] } (fun t => t.st != State.reset.st) &&
     afterExec (.drw 0 0 5) { State.reset with i := 0x050 } (fun t => t.fb != State.reset.fb) &&
     afterExec (.ldVxK 0) State.reset (fun t => t.wait != State.reset.wait) &&
     afterExec .ret (ready 0x00EE) (fun t => t.fault == some .stackUnderflow && t.task == .exited)) = true ∧
    faultOf .ret (ready 0x00EE) = some .stackUnderflow ∧ faultOf .cls (ready 0x00E0) = none ∧
    (∃ t, exec (.rnd 0 0) State.reset = .next t ∧ t.draws ≠ State.reset.draws) :=
  ⟨by decide +kernel, by decide +kernel, rfl, ⟨_, rfl, by decide⟩⟩

theorem witness_BcdStoresDecimalDigits :
    State.reset.mem.wf = true ∧ (0xFFD : Half).toNat + 2 ≤ 0xFFF ∧ (0xFFE : Half).toNat + 2 > 0xFFF := by decide +kernel

theorem witness_BlockTransfersInAndOutOfRange :
    State.reset.mem.wf = true ∧ (0xFF0 : Half).toNat + (15 : RegIdx).val ≤ 0xFFF ∧
    (0xFF1 : Half).toNat + (15 : RegIdx).val > 0xFFF ∧ (0xFFF : Half).toNat + (0 : RegIdx).val ≤ 0xFFF ∧
    (0x1000 : Half).toNat + (0 : RegIdx).val > 0xFFF := by decide +kernel

theorem witness_ReadReturnsMostRecentWrite :
    (∀ w ∈ [((0 : Nat), (1 : Byte)), (0xFFF, 2), (0, 3)], w.1 ≤ 0xFFF) ∧
    (memWriteBytes [] 0xFFF [2]).wf = true := by decide +kernel

/-- L2-I21: what memory holds after `F155` with `60 2A` in `V0`, `V1` and `I = 0x202`. -/
def afterStore (a : Nat) : Byte := if a = 0x202 then 0x60 else if a = 0x203 then 0x2A else memRead (ready 0xF155).mem a

theorem witness_NextFetchSeesStore :
    (ready 0xF155).mem.wf = true ∧ (0x202 : Half).toNat + (1 : RegIdx).val ≤ 0xFFF ∧
    (∀ k : RegIdx, k ≤ 1 →
      afterStore (0x202 + k.val) = ({ ready 0xF155 with v := regs [(0, 0x60), (1, 0x2A)] } : State).reg k) ∧
    (∀ a, a < 0x202 ∨ 0x202 + 1 < a → afterStore a = memRead (ready 0xF155).mem a) :=
  ⟨by decide +kernel, by decide, by decide +kernel,
    fun a h => by rw [afterStore, if_neg (by omega), if_neg (by omega)]⟩

/-- What memory holds after `F033` with 123 in `V0` and `I = 0xFFD`, the highest place for the digits. -/
def afterDigits (a : Nat) : Byte :=
  if a = 0xFFD then 1 else if a = 0xFFE then 2 else if a = 0xFFF then 3 else memRead (ready 0xF033).mem a

theorem witness_NextFetchSeesStore_digits :
    (ready 0xF033).mem.wf = true ∧ (0xFFD : Half).toNat + 2 ≤ 0xFFF ∧
    ((afterDigits 0xFFD).toNat = 123 / 100 ∧ (afterDigits (0xFFD + 1)).toNat = 123 / 10 % 10 ∧
      (afterDigits (0xFFD + 2)).toNat = 123 % 10) ∧
    (∀ a, a < 0xFFD ∨ 0xFFD + 2 < a → afterDigits a = memRead (ready 0xF033).mem a) :=
  ⟨by decide +kernel, by decide, by decide +kernel,
    fun a h => by rw [afterDigits, if_neg (by omega), if_neg (by omega), if_neg (by omega)]⟩

/-- R62: fetches after `F033` (123) at the stored bytes, and at the two addresses where only one byte was stored. -/
theorem test_fetch_meets_stored_digit :
    [((0x203 : Half), (0x0001 : Half)), (0x202, 0x0102), (0x201, 0x0203), (0x200, 0x0300)].all (fun p =>
      afterExec (.ldB 0) { State.reset with i := p.1, v := regs [(0, 123)] } (fun t => t.fetchWord == p.2)) = true := by
  decide +kernel

/-! #### Display -/

theorem witness_SpriteXorsEachCellItLandsOn :
    (blankScreen Config.default).length = Config.default.rows * Config.default.cols ∧
    31 < Config.default.rows ∧ 63 < Config.default.cols := by decide +kernel

/-- On a display of one cell every bit of the sprite lands on it: `FF` lands eight times, `80` once. -/
theorem witness_SpriteXorsEachCellItLandsOn_oneCell :
    spriteHits oneCell 0 0 [0xFF] 0 0 = 8 ∧
    xorSprite oneCell 0 0 [0xFF] [false] = ([false], true) ∧
    xorSprite oneCell 0 0 [0x80] [false] = ([true], false) := by decide +kernel

/-- The tallest sprite fits the default display, and a display of exactly 15 rows and 8 columns. -/
theorem witness_CollisionFlagMeansLitPixelErased :
    Config.default.spriteFits 15 = true ∧
    (display 15 8 (by decide) (by decide)).spriteFits (List.replicate 15 (0xFF : Byte)).length = true ∧
    (blankScreen Config.default).length = Config.default.rows * Config.default.cols := by decide +kernel

theorem witness_DrawingTwiceRestoresScreen :
    Config.default.spriteFits 1 = true ∧
    (blankScreen Config.default).length = Config.default.rows * Config.default.cols ∧
    (xorSprite Config.default 0 0 [0x80] (blankScreen Config.default)).2 = false := by decide +kernel

theorem witness_DrawUsesSpriteAtIndex :
    (0xFF1 : Half).toNat + (15 : Fin 16).val - 1 ≤ 0xFFF ∧ (0xFF2 : Half).toNat + (15 : Fin 16).val - 1 > 0xFFF ∧
    (0xFFF : Half).toNat + (1 : Fin 16).val - 1 ≤ 0xFFF ∧ (0x1000 : Half).toNat + (1 : Fin 16).val - 1 > 0xFFF ∧
    (0 : Fin 16).val = 0 := by decide

/-- The view's last pixel; the scales are free values in `State.presentation`, and here any bytes. -/
theorem witness_PackedViewHasThreeBytesPerPixel :
    31 < Config.default.rows ∧ 63 < Config.default.cols ∧
    (packedColor Config.default 10 20 30 ((blankScreen Config.default).set 2047 true)).drop 6141 = [10, 20, 30] := by
  decide +kernel

/-- The smallest display on which the tallest sprite fits, with its last row and column; one on which it does not, where
the order of R182 decides: `FF` over one cell leaves it as it was and reports an erased pixel. -/
theorem witness_SpriteVisitsCellsInOrderOnEveryDisplay :
    (display 15 8 (by decide) (by decide)).spriteFits 15 = true ∧ (14 : Nat) < 15 ∧ (7 : Nat) < 8 ∧
    oneCell.spriteFits 1 = false ∧ xorSprite oneCell 0 0 [0xFF] [false] = ([false], true) := by decide +kernel

/-! #### Keypad, timers, frames -/

theorem witness_KeyQueriesReadTheLatch :
    (({ State.reset with v := regs [(0, 15)] } : State).reg 0).toNat < 16 ∧
    (({ State.reset with v := regs [(0, 16)] } : State).reg 0).toNat > 0xF := by decide +kernel

theorem witness_KeyWaitStartsWithKeysDownNow :
    ∃ t, exec (.ldVxK 5) (ready 0xF50A) = .next t ∧ CycleNext t 0 := ⟨_, rfl, rfl, rfl, by decide, fun _ => rfl⟩

theorem witness_FrameEndTicksThenHandsOff : FrameEndNext frameDone 9 := frameDone_next

/-- A frame's end, a host write, and the two timer writes, each changing its field. -/
theorem witness_KeysAndScreenChangeOnlyAtHandOff :
    (after { frameDone with hostKey := keysDown [7], fb := clearScreen Config.default true, dt := 2, st := 2 }
       (fun t => t.key != frameDone.key && t.pub != frameDone.pub && t.dt == 1 && t.st == 1) &&
     after { ready 0x1200 with hostCalls := [.writeKeys (keysDown [7])] }
       (fun t => t.hostKey == keysDown [7] && t.key == noKeys) &&
     after { ready 0xF015 with v := regs [(0, 1)] } (fun t => t.dt == 1) &&
     after { ready 0xF018 with v := regs [(0, 1)] } (fun t => t.st == 1)) = true := by decide +kernel

/-! #### Lifecycle -/

theorem witness_CreateGivesInitialState :
    (CreateRequest.mk Config.default false none).allocated = false ∧
    (CreateRequest.mk Config.default true none).image = none ∧
    (CreateRequest.mk Config.default true (some [0x12, 0x00])).image = some [0x12, 0x00] ∧
    ([0x12, 0x00] : List Byte).length ≤ 3584 := ⟨rfl, rfl, rfl, by decide⟩

theorem witness_CreateGivesInitialState_bounds (b : Byte) :
    (List.replicate 3585 b).length > 3584 ∧ (List.replicate 3584 b).length ≤ 3584 := by
  rw [List.length_replicate, List.length_replicate]; omega

theorem witness_CreatedMachineMeetsEveryInvariant : create ⟨oneCell, true, some [0x12, 0x00]⟩ =
    .ok ((zeroState oneCell).setMem (memWriteBytes (zeroState oneCell).mem 0x200 [0x12, 0x00])) := by decide +kernel

theorem witness_HostCallsFollowLifecycle :
    State.reset.life = .idle ∧ (ready 0x1200).life = .running ∧ faultedMachine.life = .stopped ∧
    ({ State.reset with hostCalls := [.start true] } : State).hostCalls = .start true :: [] ∧
    ({ ready 0x1200 with hostCalls := [.stop false, .reinit] } : State).hostCalls = .stop false :: [.reinit] :=
  ⟨rfl, rfl, rfl, rfl, rfl⟩

theorem witness_PollSeesStopAndStopReturns :
    (({ ready 0x1200 with running := false } : State).hostCalls = [] ∧
      ({ ready 0x1200 with running := false } : State).task = .live 0) ∧
    (({ faultedMachine with hostCalls := [], joining := [true] } : State).hostCalls = [] ∧
      ({ faultedMachine with hostCalls := [], joining := [true] } : State).task = .exited ∧
      ({ faultedMachine with hostCalls := [], joining := [true] } : State).joining = true :: []) ∧
    ({ faultedMachine with hostCalls := [], joining := [false, true] } : State).joining = false :: [true] :=
  ⟨⟨rfl, rfl⟩, ⟨rfl, rfl, rfl⟩, rfl⟩

/-- At a frame's start, in its middle and at its end. -/
theorem witness_StopTakesEffectWithinOneFrame :
    ∀ slot ∈ [0, 1, 8, 9], ({ ready 0x1200 with running := false, task := .live slot } : State).hostCalls = [] ∧
      ({ ready 0x1200 with running := false, task := .live slot } : State).running = false ∧
      ({ ready 0x1200 with running := false, task := .live slot } : State).task = .live slot :=
  fun _ _ => ⟨rfl, rfl, rfl⟩

theorem witness_FaultIsFinal :
    LifecycleOk faultedMachine ∧ faultedMachine.fault = some .memOutOfRange ∧
    ∃ t, step faultedMachine = .next t ∧ (t.replies == [.error .invalidState]) = true :=
  ⟨faultedMachine_lifecycleOk, rfl, after_spec (p := fun t => t.replies == [.error .invalidState]) (by decide +kernel)⟩

/-- One state that meets every invariant and has a next state. -/
theorem witness_StepKeepsEachInvariant :
    DataOk (ready 0x6A2F) ∧ LifecycleOk (ready 0x6A2F) ∧ FrameCountOk (ready 0x6A2F) ∧ PcOk (ready 0x6A2F) ∧
    ∃ t, step (ready 0x6A2F) = .next t ∧ (t.reg 0xA == 0x2F) = true :=
  ⟨ready_dataOk, ready_lifecycleOk _, ready_frameCountOk _, ready_pcOk _,
    after_spec (p := fun t => t.reg 0xA == 0x2F) (by decide +kernel)⟩

/-- The invariants on every kind of step: a frame's end, a poll, a fault and a host call. -/
theorem witness_StepKeepsEachInvariant_steps :
    (after frameDone (fun t => t.frames == 1) &&
     after { ready 0x1200 with running := false } (fun t => t.task == .exited) &&
     after (ready 0x00EE) (fun t => t.task == .exited && t.fault != none) &&
     after { State.reset with hostCalls := [.start true] } (fun t => t.task == .live 0)) = true := by decide +kernel

end Sys2Proof.Machine.Tests
end

section
/-!
SUPPORT. Proofs of the family 10_state.md: what a core cycle does to `CYCLES`, `FAULT` and the execution task (R33),
and the machine that creation gives (R40, R260, R261).
-/

namespace Sys2Proof.Machine

/-! ### Every instruction and every cycle has a next state (R78, R220) -/

theorem withTransfer_total (len : Nat) (s body : State) : ∃ t, withTransfer len s body = .next t := by
  by_cases h : len = 0 ∨ s.i.toNat + len - 1 ≤ 0xFFF
  · exact ⟨_, withTransfer_inRange body h⟩
  · exact ⟨_, withTransfer_outOfRange body h⟩

theorem keyQuery_total (x : RegIdx) (down : Bool) (s : State) : ∃ t, keyQuery x down s = .next t := by
  by_cases h : (s.reg x).toNat < 16
  · exact ⟨_, keyQuery_inRange down h⟩
  · exact ⟨_, keyQuery_outOfRange down (by omega)⟩

/-- Only call, return, the key queries and the transfers have a check to fail, and a failed check is a fault that is
taken. -/
theorem exec_total (i : Instr) (s : State) : ∃ t, exec i s = .next t := by
  cases i with
  | call nnn => simp only [exec, execCall]; split <;> exact ⟨_, rfl⟩
  | ret => simp only [exec, execRet]; split <;> exact ⟨_, rfl⟩
  | skp | sknp => exact keyQuery_total ..
  | drw | ldB | storeRegs | loadRegs => exact withTransfer_total ..
  | _ => exact ⟨_, rfl⟩

theorem fetchExecute_total (s : State) : ∃ t, fetchExecute s = .next t := by
  unfold fetchExecute
  split
  · exact ⟨_, rfl⟩
  · split
    · exact exec_total ..
    · exact ⟨_, rfl⟩

/-! ### `CYCLES`, `FAULT` and the execution task over one cycle (R33, R222) -/

/-- What a cycle has done before it is counted: `CYCLES` is as it was, and either `FAULT` and the execution task are,
too, or a fault is recorded and the task has exited. -/
structure KeepsOrFaults (s u : State) : Prop where
  cycles : u.cycles = s.cycles
  outcome : (u.fault = s.fault ∧ u.task = s.task) ∨ (u.fault ≠ none ∧ u.task = .exited)

theorem KeepsOutside.keepsOrFaults {s u : State} (h : KeepsOutside s u) : KeepsOrFaults s u :=
  ⟨h.cycles, .inl ⟨h.fault, h.task⟩⟩

theorem keepsOrFaults_faulted (s : State) (c : FaultCode) : KeepsOrFaults s (s.faulted c) :=
  ⟨rfl, .inr ⟨Option.some_ne_none c, rfl⟩⟩

theorem exec_keepsOrFaults {i : Instr} {s u : State} (h : exec i s = .next u) : KeepsOrFaults s u := by
  rcases exec_cases h with hk | ⟨c, rfl⟩
  · exact hk.keepsOrFaults
  · exact keepsOrFaults_faulted s c

theorem notFound_keepsOrFaults (op : Half) (s : State) : KeepsOrFaults s (notFound op s) := by
  rcases notFound_cases op s with ⟨-, h⟩ | ⟨-, h⟩ | ⟨-, h⟩ <;> rw [h]
  · exact ⟨rfl, .inl ⟨rfl, rfl⟩⟩
  · exact ⟨rfl, .inl ⟨rfl, rfl⟩⟩
  · exact ⟨rfl, .inr ⟨Option.some_ne_none _, rfl⟩⟩

theorem fetchExecute_keepsOrFaults {s u : State} (h : fetchExecute s = .next u) : KeepsOrFaults s u := by
  rcases fetchExecute_cases h with ⟨-, rfl⟩ | ⟨-, i, -, hi⟩ | ⟨-, -, rfl⟩
  · exact keepsOrFaults_faulted s _
  · exact exec_keepsOrFaults hi
  · exact notFound_keepsOrFaults _ s

theorem keyWaitCycle_keepsOrFaults (w : KeyWait) (s : State) : KeepsOrFaults s (keyWaitCycle w s) := by
  rw [keyWaitCycle_frame]
  exact ⟨rfl, .inl ⟨rfl, rfl⟩⟩

/-- Every core cycle, whether it waits for a key or fetches, is counted at its end unless it has faulted. -/
theorem coreCycle_eq_countCycle (s : State) :
    ∃ u, KeepsOrFaults s u ∧ coreCycle s = .next u.countCycle := by
  cases hw : s.wait with
  | some w => exact ⟨_, keyWaitCycle_keepsOrFaults w s, by rw [coreCycle, hw]⟩
  | none =>
    obtain ⟨u, hu⟩ := fetchExecute_total s
    exact ⟨u, fetchExecute_keepsOrFaults hu, by rw [coreCycle, hw, hu, thenDo_next]⟩

/-- Settles O11: a cycle leaves the task alive, and is counted, exactly when it does not fault. -/
theorem everyCycleCountsUnlessItFaults : Obligations.EveryCycleCountsUnlessItFaults := by
  intro s slot hn hf
  obtain ⟨u, ⟨hcycles, houtcome⟩, hu⟩ := coreCycle_eq_countCycle s
  refine ⟨u.countCycle, (step_of_cycleNext hn).trans hu, ?_⟩
  rcases houtcome with ⟨hfault, htask⟩ | ⟨hfault, htask⟩
  · rw [countCycle_live (htask.trans hn.live)]
    exact .inl ⟨hfault.trans hf, congrArg (· + 1) hcycles, rfl⟩
  · rw [countCycle_exited htask]
    exact .inr ⟨hfault, hcycles, htask⟩

/-! ### Creation (R40, R260, R261) -/

theorem create_not_allocated {r : CreateRequest} (h : r.allocated = false) : create r = .error .memoryError := by
  simp [create, h]

theorem create_unreadable {r : CreateRequest} (ha : r.allocated = true) (hi : r.image = none) :
    create r = .error .ioError := by
  simp [create, ha, loadProgram, hi]

theorem create_too_long {r : CreateRequest} {image : List Byte} (ha : r.allocated = true)
    (hi : r.image = some image) (hl : image.length > 3584) : create r = .error .ioError := by
  simp [create, ha, loadProgram, hi, hl]

theorem create_ok {r : CreateRequest} {image : List Byte} (ha : r.allocated = true)
    (hi : r.image = some image) (hl : image.length ≤ 3584) :
    create r = .ok ((zeroState r.config).setMem (memWriteBytes (zeroState r.config).mem 0x200 image)) := by
  simp [create, ha, loadProgram, hi, hl]

theorem zeroState_mem_wf (c : Config) : (zeroState c).mem.wf = true :=
  memWriteBytes_wf rfl (by simp [Config.fontBase])

/-- Outside the font's 80 bytes a byte that nothing has written reads 0 (R59). -/
theorem memInitial_outside_font {a : Nat} (h : ¬(0x050 ≤ a ∧ a < 0x0A0)) : memInitial a = 0 := if_neg h

/-- R54, R55, R59: before the image is loaded, memory holds the configured font and 0 everywhere else. -/
theorem memRead_zeroState (c : Config) (a : Nat) :
    memRead (zeroState c).mem a =
      if 0x050 ≤ a ∧ a < 0x0A0 then c.font.toList.getD (a - 0x050) 0 else 0 := by
  have hwrite := memRead_memWriteBytes (bs := c.font.toList) (m := []) (a := 0x050) a rfl (by simp)
  rw [Vector.length_toList] at hwrite
  refine hwrite.trans ?_
  split
  · rfl
  · next h => exact memInitial_outside_font h

/-- R261: the image lies above the font, so loading it leaves the font as it is. -/
theorem memRead_created (c : Config) {image : List Byte} (hl : image.length ≤ 3584) (a : Nat) :
    memRead (memWriteBytes (zeroState c).mem 0x200 image) a =
      if 0x050 ≤ a ∧ a < 0x0A0 then c.font.toList.getD (a - 0x050) 0
      else if 0x200 ≤ a ∧ a < 0x200 + image.length then image.getD (a - 0x200) 0 else 0 := by
  rw [memRead_memWriteBytes a (zeroState_mem_wf c) (by simp only [Config.lastAddr]; omega), memRead_zeroState]
  by_cases hfont : 0x050 ≤ a ∧ a < 0x0A0
  · rw [if_neg (by omega), if_pos hfont, if_pos hfont]
  · rw [if_neg hfont, if_neg hfont]

theorem length_blankScreen (c : Config) : (blankScreen c).length = c.rows * c.cols := List.length_replicate

theorem eq_false_of_mem_blankScreen {c : Config} {p : Bool} (h : p ∈ blankScreen c) : p = false :=
  List.eq_of_mem_replicate h

theorem noKeys_getElem (k : Nat) (h : k < 16) : noKeys[k] = false := Vector.getElem_replicate h

/-- Settles O48: each error by its cause, and otherwise the zero state with the image in memory. -/
theorem createGivesInitialState : Obligations.CreateGivesInitialState := by
  intro r
  refine ⟨create_not_allocated, create_unreadable, fun _ => create_too_long, fun image ha hi hl => ?_⟩
  exact ⟨_, create_ok ha hi hl, fun a _ => memRead_created r.config hl a,
    fun x => Vector.getElem_replicate x.isLt, rfl, rfl, fun k h => Vector.getElem_replicate h, rfl,
    rfl, rfl, fun k h => ⟨noKeys_getElem k h, noKeys_getElem k h⟩,
    length_blankScreen r.config, fun _ => eq_false_of_mem_blankScreen,
    length_blankScreen r.config, fun _ => eq_false_of_mem_blankScreen,
    rfl, rfl, rfl, rfl, rfl⟩

end Sys2Proof.Machine
end

section
/-!
SUPPORT. Proofs of the family 20_memory.md: a sprite as one pass over its bits in the written order, and the displays
on which it visits no cell twice (R7, R182).
-/

namespace Sys2Proof.Machine

/-! ### The parameters' checks (R7, R55) -/

/-- R7, R55: no parameters exactly where a row, a column or a byte of the font is missing. -/
theorem config_ofValues_eq_none_iff (rows cols cycles : Nat) (p : UnknownOpcodePolicy) (font : List Byte) :
    Config.ofValues rows cols cycles p font = none ↔ rows = 0 ∨ cols = 0 ∨ font.length ≠ 80 := by
  unfold Config.ofValues
  split
  · next h => simp only [reduceCtorEq, false_iff]; omega
  · next h => simp only [true_iff]; omega

theorem spriteFits_iff (c : Config) (height : Nat) : c.spriteFits height = true ↔ 8 ≤ c.cols ∧ height ≤ c.rows := by
  simp [Config.spriteFits]

/-- Two offsets below `m` that wrap to one place from the same start are the same offset. -/
theorem offset_inj_of_add_mod_eq {m start d d' : Nat} (hd : d < m) (hd' : d' < m)
    (h : (start + d) % m = (start + d') % m) : d = d' :=
  Nat.ModEq.eq_of_lt_of_lt (Nat.ModEq.add_left_cancel' start h) hd hd'

/-! ### A sprite is drawn bit by bit in the written order (R182) -/

/-- The bit of a sprite at row `d.1` and column `d.2`, XORed into its cell. -/
def xorSpriteBit (c : Config) (col row : Nat) (sprite : List Byte) (acc : Framebuffer × Bool) (d : Nat × Nat) :
    Framebuffer × Bool :=
  xorCell c ((row + d.1) % c.rows) ((col + d.2) % c.cols) (spriteBit (sprite.getD d.1 0) d.2) acc

theorem xorBits_eq_foldl (c : Config) (col row : Nat) (b : Byte) : ∀ (n dx : Nat) (acc : Framebuffer × Bool),
    xorBits c col row b dx n acc =
      (List.range' dx n).foldl
        (fun acc dx => xorCell c (row % c.rows) ((col + dx) % c.cols) (spriteBit b dx) acc) acc
  | 0, _, _ => rfl
  | n + 1, dx, acc => by rw [xorBits, xorBits_eq_foldl c col row b n, List.range'_succ, List.foldl_cons]

theorem xorRows_eq_foldl (c : Config) (col : Nat) : ∀ (sprite : List Byte) (row : Nat) (acc : Framebuffer × Bool),
    xorRows c col row sprite acc =
      (List.range sprite.length).foldl
        (fun acc dy => xorBits c col (row + dy) (sprite.getD dy 0) 0 8 acc) acc
  | [], _, _ => rfl
  | b :: bs, row, acc => by
    rw [xorRows, xorRows_eq_foldl c col bs, List.length_cons, List.range_succ_eq_map, List.foldl_cons, List.foldl_map]
    simp only [List.getD_cons_succ, List.getD_cons_zero, Nat.add_zero, Nat.add_right_comm row 1, Nat.add_assoc]

/-- The two nested passes of the model, over the rows and over the bits of each, are one pass over the pairs. -/
theorem xorSprite_eq_foldl (c : Config) (col row : Nat) (sprite : List Byte) (f : Framebuffer) :
    xorSprite c col row sprite f =
      ((List.range sprite.length).flatMap fun dy => (List.range 8).map fun dx => (dy, dx)).foldl
        (xorSpriteBit c col row sprite) (f, false) := by
  simp only [xorSprite, xorRows_eq_foldl, xorBits_eq_foldl, List.foldl_flatMap, List.foldl_map, List.range_eq_range',
    xorSpriteBit]

/-- Settles O58: the checks of the parameters, no cell visited twice where the sprite fits, and one pass over the bits
in the written order. -/
theorem spriteVisitsCellsInOrderOnEveryDisplay : Obligations.SpriteVisitsCellsInOrderOnEveryDisplay := by
  refine ⟨fun c => ⟨c.rows_pos, c.cols_pos⟩, config_ofValues_eq_none_iff, fun height h => ?_,
    fun c col row height dy dx dy' dx' hfits hdy hdy' hdx hdx' hrow hcol => ?_, fun c col row sprite f => ?_⟩
  · exact (spriteFits_iff Config.default height).mpr ⟨by decide, h.trans (by decide)⟩
  · obtain ⟨hcols, hrows⟩ := (spriteFits_iff c height).mp hfits
    exact ⟨offset_inj_of_add_mod_eq (hdy.trans_le hrows) (hdy'.trans_le hrows) hrow,
      offset_inj_of_add_mod_eq (hdx.trans_le hcols) (hdx'.trans_le hcols) hcol⟩
  · simp only [← spriteBit_eq]
    exact xorSprite_eq_foldl c col row sprite f

end Sys2Proof.Machine
end

section
/-!
SUPPORT. Proofs of the family 30_encoding.md: which words no row of the decode table selects (R76), and where every
instruction leaves `PC` (R79).
-/

namespace Sys2Proof.Machine

/-! ### The not-found words (R74, R76) -/

theorem decodeWord_error_iff (op : Half) :
    (∃ e, decodeWord op = .error e) ↔ ∀ r ∈ decodeTable, r.selects op = false := by
  cases h : decodeTable.find? (fun r => r.selects op) with
  | none =>
    simp only [decodeWord, h, Except.error.injEq, exists_eq', true_iff]
    simpa only [List.find?_eq_none, Bool.not_eq_true] using h
  | some r =>
    simp only [decodeWord, h, reduceCtorEq, exists_false, false_iff]
    exact fun hnone => absurd (List.find?_some h) (Bool.eq_false_iff.mp (hnone r (List.mem_of_find?_eq_some h)))

theorem rowsLow_select_none_iff (op : Half) :
    (∀ r ∈ rowsLow, r.selects op = false) ↔
      (op.toNat / 0x1000 < 8 →
        (op.toNat < 0x1000 ∧ op.toNat ≠ 0x000 ∧ op.toNat ≠ 0x0E0 ∧ op.toNat ≠ 0x0EE) ∨
        (op.toNat / 0x1000 = 0x5 ∧ op.toNat % 0x10 ≠ 0)) := by
  simp only [rowsLow, List.mem_cons, List.not_mem_nil, or_false, forall_eq_or_imp, forall_eq, DecodeRow.selects,
    selects_FFFF, selects_F000, selects_F00F, decide_eq_false_iff_not, BitVec.reduceToNat]
  omega

theorem rowsAlu_select_none_iff (op : Half) :
    (∀ r ∈ rowsAlu, r.selects op = false) ↔
      (op.toNat / 0x1000 = 0x8 → op.toNat % 0x10 ∈ [0x8, 0x9, 0xA, 0xB, 0xC, 0xD, 0xF]) := by
  simp only [rowsAlu, List.mem_cons, List.not_mem_nil, or_false, forall_eq_or_imp, forall_eq, DecodeRow.selects,
    selects_F00F, decide_eq_false_iff_not, BitVec.reduceToNat]
  omega

theorem rowsHigh_select_none_iff (op : Half) :
    (∀ r ∈ rowsHigh, r.selects op = false) ↔
      (9 ≤ op.toNat / 0x1000 ∧ op.toNat / 0x1000 < 0xF →
        (op.toNat / 0x1000 = 0x9 ∧ op.toNat % 0x10 ≠ 0) ∨
        (op.toNat / 0x1000 = 0xE ∧ op.toNat % 0x100 ∉ [0x9E, 0xA1])) := by
  simp only [rowsHigh, List.mem_cons, List.not_mem_nil, or_false, forall_eq_or_imp, forall_eq, DecodeRow.selects,
    selects_F000, selects_F00F, selects_F0FF, decide_eq_false_iff_not, BitVec.reduceToNat]
  omega

theorem rowsMisc_select_none_iff (op : Half) :
    (∀ r ∈ rowsMisc, r.selects op = false) ↔
      (op.toNat / 0x1000 = 0xF →
        op.toNat % 0x100 ∉ [0x07, 0x0A, 0x15, 0x18, 0x1E, 0x29, 0x33, 0x55, 0x65]) := by
  simp only [rowsMisc, List.mem_cons, List.not_mem_nil, or_false, forall_eq_or_imp, forall_eq, DecodeRow.selects,
    selects_F0FF, decide_eq_false_iff_not, BitVec.reduceToNat]
  omega

/-- The major nibble picks the group of rows that can select a word. -/
theorem majorNibble_cases (op : Half) :
    op.toNat / 0x1000 < 8 ∨ op.toNat / 0x1000 = 8 ∨ (9 ≤ op.toNat / 0x1000 ∧ op.toNat / 0x1000 < 0xF) ∨
      op.toNat / 0x1000 = 0xF := by
  have := op.isLt
  omega

/-- Settles O4: a word is not found when none of the four groups of rows selects it, and each group answers for the
words of its own major nibbles. -/
theorem notFoundWordsAreTheListedOnes : Obligations.NotFoundWordsAreTheListedOnes := by
  intro op
  simp only [decodeWord_error_iff, decodeTable, List.forall_mem_append, rowsLow_select_none_iff,
    rowsAlu_select_none_iff, rowsHigh_select_none_iff, rowsMisc_select_none_iff]
  constructor
  · rintro ⟨⟨⟨hlow, halu⟩, hhigh⟩, hmisc⟩
    rcases majorNibble_cases op with hm | hm | hm | hm
    · rcases hlow hm with h | h
      · exact .inl h
      · exact .inr (.inl h)
    · exact .inr (.inr (.inl ⟨hm, halu hm⟩))
    · rcases hhigh hm with h | h
      · exact .inr (.inr (.inr (.inl h)))
      · exact .inr (.inr (.inr (.inr (.inl h))))
    · exact .inr (.inr (.inr (.inr (.inr ⟨hm, hmisc hm⟩))))
  · rintro (h | h | h | h | h | h)
    · exact ⟨⟨⟨fun _ => .inl h, by omega⟩, by omega⟩, by omega⟩
    · exact ⟨⟨⟨fun _ => .inr h, by omega⟩, by omega⟩, by omega⟩
    · exact ⟨⟨⟨by omega, fun _ => h.2⟩, by omega⟩, by omega⟩
    · exact ⟨⟨⟨by omega, by omega⟩, fun _ => .inl h⟩, by omega⟩
    · exact ⟨⟨⟨by omega, by omega⟩, fun _ => .inr h⟩, by omega⟩
    · exact ⟨⟨⟨by omega, by omega⟩, by omega⟩, fun _ => h.2⟩

/-! ### `PC` after an instruction (R79) -/

theorem zext16_eq_ofNat (nnn : Addr) : zext16 nnn = BitVec.ofNat 16 nnn.toNat :=
  BitVec.eq_of_toNat_eq (by simp [zext16])

theorem skipIf_pc (s : State) (taken : Prop) [Decidable taken] : (s.skipIf (decide taken)).pc = skipPc s taken := by
  simp [State.skipIf_frame, skipPc]

@[simp] theorem State.loadBlock_pc (s : State) (x : RegIdx) : (s.loadBlock x).pc = s.pc := by
  simp only [State.loadBlock]

/-- The claims read a vector through its list; below its length that is the vector's own entry. -/
theorem vector_toList_getD {α : Type} {n k : Nat} (v : Vector α n) (d : α) (h : k < n) : v.toList.getD k d = v[k] := by
  simp [h]

theorem keyQuery_pc {x : RegIdx} {down : Bool} {s t : State} (h : keyQuery x down s = .next t) :
    t.pc = skipPc s (s.key.toList.getD (s.reg x).toNat false = down) ∨ ∃ c, t = s.faulted c := by
  by_cases hr : (s.reg x).toNat < 16
  · rw [keyQuery_inRange down hr] at h
    cases h
    rw [vector_toList_getD s.key false hr]
    exact .inl (skipIf_pc s _)
  · rw [keyQuery_outOfRange down (by omega)] at h
    cases h
    exact .inr ⟨_, rfl⟩

/-- R79: an instruction moves `PC` as its column says, or faults precisely. -/
theorem exec_pc {i : Instr} {s t : State} (h : exec i s = .next t) :
    t.pc = pcAfter i s ∨ ∃ c, t = s.faulted c := by
  cases i with
  | jp nnn => cases h; exact .inl (zext16_eq_ofNat nnn)
  | call nnn =>
    rcases execCall_cases h with ⟨_, rfl⟩ | ⟨_, rfl⟩
    · exact .inl (zext16_eq_ofNat nnn)
    · exact .inr ⟨_, rfl⟩
  | ret =>
    rcases execRet_cases h with ⟨_, rfl⟩ | ⟨_, rfl⟩
    · exact .inl (congrArg (· + 2) (vector_toList_getD s.stack 0 (by omega)).symm)
    · exact .inr ⟨_, rfl⟩
  | seImm | sneImm | seReg | sneReg => cases h; exact .inl (skipIf_pc s _)
  | skp | sknp => exact keyQuery_pc h
  | drw | ldB | storeRegs | loadRegs =>
    rcases withTransfer_cases h with ⟨_, rfl⟩ | ⟨_, rfl⟩
    · exact .inl (by simp [pcAfter])
    · exact .inr ⟨_, rfl⟩
  | _ => cases h; exact .inl rfl

theorem skipPc_le {s : State} (taken : Prop) [Decidable taken] (h : s.pc.toNat ≤ 0xFFE) :
    (skipPc s taken).toNat ≤ 0x1002 := by
  unfold skipPc
  split <;> bv_omega

/-- The bound of R79: the largest target is that of `JP V0, nnn`, 0xFF + 0xFFF. -/
theorem pcAfter_le (i : Instr) {s : State} (hs : PcOk s) (h : s.pc.toNat ≤ 0xFFE) :
    (pcAfter i s).toNat ≤ 0x10FE := by
  cases i with
  | idle | ldVxK => exact hs.pc
  | jp | call | jpV0 => simp only [pcAfter]; bv_omega
  | ret =>
    have := hs.stack (s.sp.val - 1) (by omega)
    simp only [pcAfter]
    rw [vector_toList_getD s.stack 0 (by omega)]
    bv_omega
  | seImm | sneImm | seReg | sneReg | skp | sknp => exact (skipPc_le _ h).trans (by decide)
  | _ => simp only [pcAfter]; bv_omega

/-- Settles O21: `PC` by its column, and the bound that keeps every addition from wrapping, which a fault keeps, too. -/
theorem everyInstructionAdvancesPcByItsColumn : Obligations.EveryInstructionAdvancesPcByItsColumn := by
  refine ⟨fun i s t _ h hf => ?_, fun i s t hs hpc h => ?_⟩
  · rcases exec_pc h with hcol | ⟨c, rfl⟩
    · exact hcol
    · exact absurd hf (Option.some_ne_none c)
  · rcases exec_pc h with hcol | ⟨c, rfl⟩
    · exact hcol ▸ pcAfter_le i hs hpc
    · exact hs.pc

end Sys2Proof.Machine
end

section
/-!
SUPPORT. Proofs of the family 41_control.md, first part: the word of an instruction decodes to it (R71, R74), and what
a cycle does with the word it has fetched (R78).
-/

namespace Sys2Proof.Machine

/-! ### The rows of the decode table are disjoint (R74, R75) -/

/-- The two rows want different values of a bit that both test. -/
def RowsClash (r₁ r₂ : DecodeRow) : Prop := r₁.pattern &&& r₂.mask ≠ r₂.pattern &&& r₁.mask

theorem rowsClash_symm : Std.Symm RowsClash := ⟨fun _ _ => Ne.symm⟩

theorem RowsClash.not_both_select {r₁ r₂ : DecodeRow} {op : Half} (h : RowsClash r₁ r₂)
    (h₁ : r₁.selects op = true) (h₂ : r₂.selects op = true) : False := by
  apply h
  rw [← beq_iff_eq.mp h₁, ← beq_iff_eq.mp h₂, BitVec.and_assoc, BitVec.and_assoc, BitVec.and_comm r₁.mask]

/-- Every two rows of R74 clash: a check of the table's 35 masks and patterns. -/
theorem decodeTable_pairwise_clash : decodeTable.Pairwise RowsClash := by
  unfold RowsClash
  decide

/-- A word decodes by whichever row selects it, because no other row does. -/
theorem decodeWord_of_selects {op : Half} {r : DecodeRow} (hr : r ∈ decodeTable) (hs : r.selects op = true) :
    decodeWord op = .ok (r.build (fieldsOf op)) := by
  cases hf : decodeTable.find? (fun r => r.selects op) with
  | none => exact absurd hs (List.find?_eq_none.mp hf r hr)
  | some r' =>
    have hrr : r' = r := by
      by_contra hne
      have := rowsClash_symm
      have hclash : RowsClash r' r := decodeTable_pairwise_clash.forall (List.mem_of_find?_eq_some hf) hr hne
      have hs' : r'.selects op = true := List.find?_some (p := fun r : DecodeRow => r.selects op) hf
      exact hclash.not_both_select hs' hs
    rw [decodeWord, hf, hrr]

/-- An instruction whose encoding selects its row is what its encoding decodes to. -/
theorem encodedBy_of_row {i : Instr} {w : Nat} (h : Laws.Row.Statement i) (hw : encode i = BitVec.ofNat 16 w) :
    EncodedBy i w := by
  obtain ⟨r, hr, hs, hb⟩ := h
  rw [EncodedBy, ← hw, decodeWord_of_selects hr hs, hb]

/-! ### The formats as the claims write them (R71) -/

theorem formatXkk_eq (major : Nat) (x : RegIdx) (kk : Byte) :
    formatXkk major x kk = BitVec.ofNat 16 (major * 0x1000 + 0x100 * x.val + kk.toNat) := by
  rw [formatXkk, Nat.mul_comm x.val]

theorem formatXyn_eq (major : Nat) (x y : RegIdx) (n : Nat) :
    formatXyn major x y n = BitVec.ofNat 16 (major * 0x1000 + 0x100 * x.val + 0x10 * y.val + n) := by
  rw [formatXyn, Nat.mul_comm x.val, Nat.mul_comm y.val]

/-! ### Fetch and execute (R57, R78) -/

theorem fetchWord_of_fetchedBytes {s : State} {hi lo : Byte} (h : fetchedBytes s = [hi, lo]) :
    s.fetchWord = wordOfBytes hi lo := by
  simp only [fetchedBytes, List.cons.injEq, and_true] at h
  rw [State.fetchWord, h.1, h.2]

theorem fetchExecute_of_decodeWord {s : State} {i : Instr} (hpc : s.pc.toNat ≤ 0xFFE)
    (hd : decodeWord s.fetchWord = .ok i) : fetchExecute s = exec i s := by
  rw [fetchExecute, if_neg (Nat.not_lt.mpr hpc), hd]

end Sys2Proof.Machine
end

section
/-!
SUPPORT. Proofs of the family 41_control.md, second part: idle, jumps, call, return and skips (R100 to R108).
-/

namespace Sys2Proof.Machine

/-! ### What each instruction of control flow does -/

theorem exec_idle (s : State) : exec .idle s = .next s := rfl

theorem exec_jp (nnn : Addr) (s : State) : exec (.jp nnn) s = .next (s.setPc (zext16 nnn)) := rfl

theorem exec_jpV0 (nnn : Addr) (s : State) :
    exec (.jpV0 nnn) s = .next (s.setPc (trunc16 ((s.reg 0).toNat + nnn.toNat))) := rfl

theorem exec_call_of_lt (nnn : Addr) {s : State} (h : s.sp.val < 16) :
    exec (.call nnn) s =
      .next { s with stack := s.stack.set s.sp.val s.pc, sp := ⟨s.sp.val + 1, by omega⟩, pc := zext16 nnn } :=
  dif_pos h

theorem exec_call_of_full (nnn : Addr) {s : State} (h : s.sp.val = 16) :
    exec (.call nnn) s = .next (s.faulted .stackOverflow) :=
  dif_neg (by omega)

theorem exec_ret_of_pos {s : State} (h : 0 < s.sp.val) :
    exec .ret s = .next { s with sp := ⟨s.sp.val - 1, by omega⟩, pc := s.stack[s.sp.val - 1] + 2 } :=
  dif_pos h

theorem exec_ret_of_empty {s : State} (h : s.sp.val = 0) : exec .ret s = .next (s.faulted .stackUnderflow) :=
  dif_neg (by omega)

theorem skipIf_eq_setPc (s : State) (taken : Prop) [Decidable taken] :
    s.skipIf (decide taken) = s.setPc (skipPc s taken) := by
  simp [State.skipIf_frame, skipPc, State.setPc]

theorem exec_seImm (x : RegIdx) (kk : Byte) (s : State) :
    exec (.seImm x kk) s = .next (s.setPc (skipPc s (s.reg x = kk))) :=
  congrArg _ (skipIf_eq_setPc ..)

theorem exec_sneImm (x : RegIdx) (kk : Byte) (s : State) :
    exec (.sneImm x kk) s = .next (s.setPc (skipPc s (s.reg x ≠ kk))) :=
  congrArg _ (skipIf_eq_setPc ..)

theorem exec_seReg (x y : RegIdx) (s : State) :
    exec (.seReg x y) s = .next (s.setPc (skipPc s (s.reg x = s.reg y))) :=
  congrArg _ (skipIf_eq_setPc ..)

theorem exec_sneReg (x y : RegIdx) (s : State) :
    exec (.sneReg x y) s = .next (s.setPc (skipPc s (s.reg x ≠ s.reg y))) :=
  congrArg _ (skipIf_eq_setPc ..)

/-! ### The targets (R101, R108) -/

theorem zext16_toNat (nnn : Addr) : (zext16 nnn).toNat = nnn.toNat := by
  have := nnn.isLt
  rw [zext16_eq_ofNat, BitVec.toNat_ofNat]
  omega

/-- R108: `V0 + nnn` is at most 0x10FE, so nothing is truncated. -/
theorem trunc16_add_toNat (b : Byte) (nnn : Addr) : (trunc16 (b.toNat + nnn.toNat)).toNat = b.toNat + nnn.toNat := by
  have := b.isLt
  have := nnn.isLt
  rw [trunc16, BitVec.toNat_ofNat]
  omega

/-! ### The statements -/

/-- Settles O18: the two cases of a return, and a return from the state a call leaves, which finds the call's own
address on top of the stack. -/
theorem returnPopsAndAddsTwo : Obligations.ReturnPopsAndAddsTwo := by
  refine ⟨encodedBy_of_row Laws.Row.ret rfl, fun s => ⟨fun h => ?_, exec_ret_of_empty, fun nnn h => ?_⟩⟩
  · exact ⟨_, exec_ret_of_pos h, rfl, rfl, fun _ => rfl, rfl⟩
  · refine ⟨_, _, exec_call_of_lt nnn h, exec_ret_of_pos (Nat.succ_pos _), ?_, rfl, fun _ => rfl, rfl⟩
    exact congrArg (· + 2) (Vector.getElem_set_self h)

/-- Settles O15: the fetched word 0000 decodes to the instruction that leaves the state, and the cycle is counted. -/
theorem idleChangesNothing : Obligations.IdleChangesNothing := by
  have hidle : EncodedBy .idle 0x0000 := encodedBy_of_row Laws.Row.idle rfl
  refine ⟨hidle, exec_idle, fun s slot hn hb => ?_⟩
  have hd : decodeWord s.fetchWord = .ok .idle := by rw [fetchWord_of_fetchedBytes hb]; exact hidle
  rw [step_of_fetchNext hn, fetchExecute_of_decodeWord hn.inRange hd, exec_idle, thenDo_next, countCycle_live hn.live]

/-- Settles O16: each jump sets `PC` alone, to a target that fits in 16 bits. -/
theorem jumpsWriteTheirTarget : Obligations.JumpsWriteTheirTarget := fun nnn s =>
  ⟨encodedBy_of_row (Laws.Row.jp nnn) rfl, encodedBy_of_row (Laws.Row.jpV0 nnn) rfl,
    ⟨_, exec_jp nnn s, zext16_toNat nnn, fun _ => rfl, rfl⟩,
    ⟨_, exec_jpV0 nnn s, trunc16_add_toNat (s.reg 0) nnn, fun _ => rfl, rfl⟩⟩

/-- Settles O17: with room the call's own address is the new top entry, and without room the call faults. -/
theorem callPushesItsOwnAddress : Obligations.CallPushesItsOwnAddress := by
  intro nnn s
  refine ⟨encodedBy_of_row (Laws.Row.call nnn) rfl, fun h => ?_, exec_call_of_full nnn⟩
  exact ⟨_, exec_call_of_lt nnn h, Vector.getElem_set_self h, fun k hk hne => Vector.getElem_set_ne h hk hne.symm,
    rfl, zext16_toNat nnn, fun _ => rfl, rfl⟩

/-- Settles O19: each skip sets `PC` alone, past the next instruction or onto it by the comparison. -/
theorem skipsCompareRegisterWithImmediate : Obligations.SkipsCompareRegisterWithImmediate := fun x kk s =>
  ⟨encodedBy_of_row (Laws.Row.seImm x kk) (formatXkk_eq 0x3 x kk),
    encodedBy_of_row (Laws.Row.sneImm x kk) (formatXkk_eq 0x4 x kk),
    ⟨_, exec_seImm x kk s, rfl, fun _ => rfl, rfl⟩, ⟨_, exec_sneImm x kk s, rfl, fun _ => rfl, rfl⟩⟩

/-- Settles O20: as with an immediate, for any two registers, equal ones among them. -/
theorem skipsCompareTwoRegisters : Obligations.SkipsCompareTwoRegisters := fun x y s =>
  ⟨encodedBy_of_row (Laws.Row.seReg x y) (formatXyn_eq 0x5 x y 0x0),
    encodedBy_of_row (Laws.Row.sneReg x y) (formatXyn_eq 0x9 x y 0x0),
    ⟨_, exec_seReg x y s, rfl, fun _ => rfl, rfl⟩, ⟨_, exec_sneReg x y s, rfl, fun _ => rfl, rfl⟩⟩

end Sys2Proof.Machine
end

section
/-!
SUPPORT. Proofs of the family 42_alu.md: register loads, arithmetic, bitwise and shifts (R130 to R140, R144).
-/

namespace Sys2Proof.Machine

/-! ### What writing `Vx`, and `VF` after it, does -/

theorem State.reg_writeReg_self (s : State) (x : RegIdx) (b : Byte) : (s.writeReg x b).reg x = b := by simp

/-- The frame of a register write, as the claims write it. -/
theorem State.writeReg_keeps (s : State) (x : RegIdx) (b : Byte) :
    (∀ r, r ≠ x → (s.writeReg x b).reg r = s.reg r) ∧ MemUnchanged s (s.writeReg x b) ∧
      s.writeReg x b = { s with v := (s.writeReg x b).v, pc := s.pc + 2 } :=
  ⟨fun r hr => by rw [State.reg_writeReg, if_neg hr], fun _ => rfl, s.writeReg_frame x b⟩

theorem State.reg_writeWithFlag_vf (s : State) (x : RegIdx) (b f : Byte) : (s.writeWithFlag x b f).reg vf = f := by
  simp

theorem State.reg_writeWithFlag_self (s : State) {x : RegIdx} (hx : x ≠ vf) (b f : Byte) :
    (s.writeWithFlag x b f).reg x = b := by
  simp [hx]

/-- The frame of a write with a flag, as the claims write it. -/
theorem State.writeWithFlag_keeps (s : State) (x : RegIdx) (b f : Byte) :
    (∀ r, r ≠ x → r ≠ vf → (s.writeWithFlag x b f).reg r = s.reg r) ∧ MemUnchanged s (s.writeWithFlag x b f) ∧
      s.writeWithFlag x b f = { s with v := (s.writeWithFlag x b f).v, pc := s.pc + 2 } :=
  ⟨fun r hx hf => by rw [State.reg_writeWithFlag, if_neg hf, if_neg hx], fun _ => rfl, s.writeWithFlag_frame x b f⟩

/-- R144: an instruction that writes a result and then a flag, with the numbers the two bytes hold. Where `Vx` is `VF`,
the flag stands. -/
theorem writes_result_then_flag {i : Instr} {s : State} {x : RegIdx} {b f : Byte} {result flag : Nat}
    (h : exec i s = .next (s.writeWithFlag x b f)) (hb : b.toNat = result) (hf : f.toNat = flag) :
    ∃ t, exec i s = .next t ∧ (x ≠ 0xF → (t.reg x).toNat = result) ∧ (t.reg 0xF).toNat = flag ∧
      (∀ r, r ≠ x → r ≠ 0xF → t.reg r = s.reg r) ∧ MemUnchanged s t ∧ t = { s with v := t.v, pc := s.pc + 2 } :=
  ⟨_, h, fun hx => by rw [s.reg_writeWithFlag_self hx, hb], by rw [s.reg_writeWithFlag_vf, hf],
    s.writeWithFlag_keeps x b f⟩

/-! ### The numbers the results and flags hold (R9, R22) -/

theorem trunc8_toNat (v : Nat) : (trunc8 v).toNat = v % 256 := BitVec.toNat_ofNat v 8

theorem flagOf_toNat (c : Prop) [Decidable c] : (flagOf (decide c)).toNat = if c then 1 else 0 := by
  by_cases h : c <;> simp [flagOf, h]

theorem carryOut_toNat (a b : Byte) : (carryOut a b).toNat = if a.toNat + b.toNat > 0xFF then 1 else 0 :=
  flagOf_toNat _

theorem notBorrow_toNat (a b : Byte) : (notBorrow a b).toNat = if a.toNat ≥ b.toNat then 1 else 0 :=
  flagOf_toNat _

theorem shiftRight_one_toNat (a : Byte) : (a >>> 1).toNat = a.toNat / 2 := by
  rw [BitVec.toNat_ushiftRight, Nat.shiftRight_eq_div_pow, pow_one]

theorem shiftedOutLow_toNat (a : Byte) : (shiftedOutLow a).toNat = a.toNat % 2 := by
  rw [shiftedOutLow, BitVec.toNat_and]
  exact Nat.and_one_is_mod a.toNat

/-- R140: moved down by seven places, the mask 0x80 tests bit 0; a byte has no bit above. -/
theorem shiftedOutHigh_toNat (a : Byte) : (shiftedOutHigh a).toNat = a.toNat / 0x80 := by
  have := a.isLt
  calc (shiftedOutHigh a).toNat
    _ = (a.toNat &&& 0x80) >>> 7 := by rw [shiftedOutHigh, BitVec.toNat_ushiftRight, BitVec.toNat_and]; rfl
    _ = a.toNat / 0x80 % 2 := by
      rw [Nat.shiftRight_and_distrib, Nat.shiftRight_eq_div_pow]
      exact Nat.and_one_is_mod _
    _ = a.toNat / 0x80 := by omega

/-! ### The words 8xyN, as the claims write them (R71) -/

theorem formatXyn_eq_suffix_first (major : Nat) (x y : RegIdx) (n : Nat) :
    formatXyn major x y n = BitVec.ofNat 16 (major * 0x1000 + n + 0x100 * x.val + 0x10 * y.val) := by
  rw [formatXyn_eq]
  congr 1
  omega

/-! ### What each instruction writes -/

theorem exec_ldImm (x : RegIdx) (kk : Byte) (s : State) : exec (.ldImm x kk) s = .next (s.writeReg x kk) := rfl

theorem exec_ldReg (x y : RegIdx) (s : State) : exec (.ldReg x y) s = .next (s.writeReg x (s.reg y)) := rfl

theorem exec_addImm (x : RegIdx) (kk : Byte) (s : State) :
    exec (.addImm x kk) s = .next (s.writeReg x (trunc8 ((s.reg x).toNat + kk.toNat))) := rfl

theorem exec_orReg (x y : RegIdx) (s : State) :
    exec (.orReg x y) s = .next (s.writeReg x (s.reg x ||| s.reg y)) := rfl

theorem exec_andReg (x y : RegIdx) (s : State) :
    exec (.andReg x y) s = .next (s.writeReg x (s.reg x &&& s.reg y)) := rfl

theorem exec_xorReg (x y : RegIdx) (s : State) :
    exec (.xorReg x y) s = .next (s.writeReg x (s.reg x ^^^ s.reg y)) := rfl

theorem exec_addReg (x y : RegIdx) (s : State) :
    exec (.addReg x y) s =
      .next (s.writeWithFlag x (trunc8 ((s.reg x).toNat + (s.reg y).toNat)) (carryOut (s.reg x) (s.reg y))) := rfl

theorem exec_sub (x y : RegIdx) (s : State) :
    exec (.sub x y) s =
      .next (s.writeWithFlag x (trunc8 ((s.reg x).toNat + 256 - (s.reg y).toNat)) (notBorrow (s.reg x) (s.reg y))) :=
  rfl

theorem exec_subn (x y : RegIdx) (s : State) :
    exec (.subn x y) s =
      .next (s.writeWithFlag x (trunc8 ((s.reg y).toNat + 256 - (s.reg x).toNat)) (notBorrow (s.reg y) (s.reg x))) :=
  rfl

theorem exec_shr (x y : RegIdx) (s : State) :
    exec (.shr x y) s = .next (s.writeWithFlag x (s.reg x >>> 1) (shiftedOutLow (s.reg x))) := rfl

theorem exec_shl (x y : RegIdx) (s : State) :
    exec (.shl x y) s = .next (s.writeWithFlag x (trunc8 (2 * (s.reg x).toNat)) (shiftedOutHigh (s.reg x))) := rfl

/-! ### The statements -/

/-- Settles O22: each load is a register write of its source. -/
theorem registerLoadsCopyTheirSource : Obligations.RegisterLoadsCopyTheirSource := fun x y kk s =>
  ⟨encodedBy_of_row (Laws.Row.ldImm x kk) (formatXkk_eq 0x6 x kk),
    encodedBy_of_row (Laws.Row.ldReg x y) (formatXyn_eq 0x8 x y 0x0),
    ⟨_, exec_ldImm x kk s, s.reg_writeReg_self x kk, s.writeReg_keeps x kk⟩,
    ⟨_, exec_ldReg x y s, s.reg_writeReg_self x (s.reg y), s.writeReg_keeps x (s.reg y)⟩⟩

/-- Settles O23: the sum is truncated to a byte, and the write has no flag. -/
theorem addImmediateWrapsAndWritesNoCarry : Obligations.AddImmediateWrapsAndWritesNoCarry := by
  intro x kk s
  refine ⟨encodedBy_of_row (Laws.Row.addImm x kk) (formatXkk_eq 0x7 x kk), _, exec_addImm x kk s, ?_,
    s.writeReg_keeps x _⟩
  rw [s.reg_writeReg_self, trunc8_toNat]

/-- Settles O24: the truncated sum, then the carry of the sum before truncation. -/
theorem addRegisterWritesSumThenCarry : Obligations.AddRegisterWritesSumThenCarry := fun x y s =>
  ⟨encodedBy_of_row (Laws.Row.addReg x y) (formatXyn_eq_suffix_first 0x8 x y 0x4),
    writes_result_then_flag (exec_addReg x y s) (trunc8_toNat _) (carryOut_toNat ..)⟩

/-- Settles O25: the two subtractions differ in the order of their operands only. -/
theorem subtractionsWriteDifferenceThenNotBorrow : Obligations.SubtractionsWriteDifferenceThenNotBorrow := fun x y s =>
  ⟨encodedBy_of_row (Laws.Row.sub x y) (formatXyn_eq_suffix_first 0x8 x y 0x5),
    encodedBy_of_row (Laws.Row.subn x y) (formatXyn_eq_suffix_first 0x8 x y 0x7),
    writes_result_then_flag (exec_sub x y s) (trunc8_toNat _) (notBorrow_toNat ..),
    writes_result_then_flag (exec_subn x y s) (trunc8_toNat _) (notBorrow_toNat ..)⟩

/-- Settles O26: each of the three is a register write of the bitwise combination, with no flag. -/
theorem bitwiseCombineIntoFirstRegister : Obligations.BitwiseCombineIntoFirstRegister := by
  intro x y s
  refine ⟨encodedBy_of_row (Laws.Row.orReg x y) (formatXyn_eq_suffix_first 0x8 x y 0x1),
    encodedBy_of_row (Laws.Row.andReg x y) (formatXyn_eq_suffix_first 0x8 x y 0x2),
    encodedBy_of_row (Laws.Row.xorReg x y) (formatXyn_eq_suffix_first 0x8 x y 0x3),
    ⟨_, exec_orReg x y s, fun k => ?_, s.writeReg_keeps x _⟩,
    ⟨_, exec_andReg x y s, fun k => ?_, s.writeReg_keeps x _⟩,
    ⟨_, exec_xorReg x y s, fun k => ?_, s.writeReg_keeps x _⟩⟩
  · rw [s.reg_writeReg_self, BitVec.getLsbD_or]
  · rw [s.reg_writeReg_self, BitVec.getLsbD_and]
  · rw [s.reg_writeReg_self, BitVec.getLsbD_xor]

/-- Settles O27: the shifted byte, then the bit that it lost; `y` is in the word and in nothing else. -/
theorem shiftsWriteResultThenShiftedOutBit : Obligations.ShiftsWriteResultThenShiftedOutBit := fun x y s =>
  ⟨encodedBy_of_row (Laws.Row.shr x y) (formatXyn_eq_suffix_first 0x8 x y 0x6),
    encodedBy_of_row (Laws.Row.shl x y) (formatXyn_eq_suffix_first 0x8 x y 0xE),
    writes_result_then_flag (exec_shr x y s) (shiftRight_one_toNat _) (shiftedOutLow_toNat _),
    writes_result_then_flag (exec_shl x y s) (by rw [trunc8_toNat, Nat.mul_comm]) (shiftedOutHigh_toNat _)⟩

end Sys2Proof.Machine
end

section
/-!
SUPPORT. Proofs of the family 43_index_memory.md: the writers of `I` and the memory transfers (R160 to R166).
-/

namespace Sys2Proof.Machine

/-! ### The words FxNN, as the claims write them (R71) -/

theorem formatX_eq_suffix_first (major : Nat) (x : RegIdx) (sub : Nat) :
    formatX major x sub = BitVec.ofNat 16 (major * 0x1000 + sub + 0x100 * x.val) := by
  rw [formatX]
  congr 1
  omega

/-! ### Transfers by the address of their last byte (R53, R166) -/

theorem withTransfer_of_last_le {last : Nat} {s : State} (body : State) (h : s.i.toNat + last ≤ 0xFFF) :
    withTransfer (last + 1) s body = .next body :=
  withTransfer_inRange body (.inr h)

theorem withTransfer_of_last_gt {last : Nat} {s : State} (body : State) (h : s.i.toNat + last > 0xFFF) :
    withTransfer (last + 1) s body = .next (s.faulted .memOutOfRange) :=
  withTransfer_outOfRange body (by omega)

/-! ### Bytes stored at `I` -/

/-- The state after a store of `bs` from the address in `I` on: what `Fx33` and `Fx55` leave (R163, R164). -/
def State.storeBytes (s : State) (bs : List Byte) : State := (s.setMem (memWriteBytes s.mem s.i.toNat bs)).advance

theorem State.memRead_storeBytes {s : State} {bs : List Byte} (hm : s.mem.wf = true)
    (hr : s.i.toNat + bs.length ≤ 0x1000) (a : Nat) :
    memRead (s.storeBytes bs).mem a =
      if s.i.toNat ≤ a ∧ a < s.i.toNat + bs.length then bs.getD (a - s.i.toNat) 0 else memRead s.mem a :=
  memRead_memWriteBytes a hm hr

/-- A store in range, as the claims write it: the bytes where they belong, and everything else as before. -/
theorem stores_bytes {i : Instr} {s : State} {last : Nat} {bs : List Byte}
    (h : exec i s = withTransfer (last + 1) s (s.storeBytes bs)) (hlen : bs.length = last + 1)
    (hm : s.mem.wf = true) (hr : s.i.toNat + last ≤ 0xFFF) :
    ∃ t, exec i s = .next t ∧ (∀ k (hk : k < bs.length), memRead t.mem (s.i.toNat + k) = bs[k]) ∧
      MemUnchangedOutside s t s.i.toNat (last + 1) ∧ t = { s with mem := t.mem, pc := s.pc + 2 } := by
  have hr' : s.i.toNat + bs.length ≤ 0x1000 := by omega
  refine ⟨_, h.trans (withTransfer_of_last_le _ hr), fun k hk => ?_, fun a ha => ?_, rfl⟩
  · rw [State.memRead_storeBytes hm hr', if_pos (by omega), Nat.add_sub_cancel_left, List.getD_eq_getElem _ _ hk]
  · rw [State.memRead_storeBytes hm hr', if_neg (by omega)]

/-! ### The numbers that the address and the digits hold (R162, R163) -/

/-- R162: the address of a glyph is at most 0x54B, so nothing is truncated. -/
theorem trunc16_glyph_toNat (b : Byte) : (trunc16 (0x050 + 5 * b.toNat)).toNat = 0x050 + 5 * b.toNat := by
  have := b.isLt
  rw [trunc16, BitVec.toNat_ofNat]
  omega

theorem trunc8_toNat_of_lt {v : Nat} (h : v < 256) : (trunc8 v).toNat = v := by
  rw [trunc8_toNat, Nat.mod_eq_of_lt h]

/-- R163: each digit fits in a byte, so none is truncated. -/
theorem decimalDigits_toNat (b : Byte) :
    (trunc8 (b.toNat / 100)).toNat = b.toNat / 100 ∧ (trunc8 (b.toNat / 10 % 10)).toNat = b.toNat / 10 % 10 ∧
      (trunc8 (b.toNat % 10)).toNat = b.toNat % 10 := by
  have := b.isLt
  exact ⟨trunc8_toNat_of_lt (by omega), trunc8_toNat_of_lt (by omega), trunc8_toNat_of_lt (by omega)⟩

/-! ### The registers of a block transfer (R164, R165) -/

theorem State.length_regBlock (s : State) (x : RegIdx) : (s.regBlock x).length = x.val + 1 := by
  rw [State.regBlock, List.length_take, Vector.length_toList]
  omega

theorem State.getElem_regBlock (s : State) (x k : RegIdx) (h : k.val < (s.regBlock x).length) :
    (s.regBlock x)[k.val] = s.reg k := by
  simp only [State.regBlock, List.getElem_take, Vector.getElem_toList, State.reg]

theorem State.reg_loadBlock (s : State) (x k : RegIdx) :
    (s.loadBlock x).reg k = if k ≤ x then memRead s.mem (s.i.toNat + k.val) else s.reg k :=
  Vector.getElem_ofFn k.isLt

@[simp] theorem State.loadBlock_mem (s : State) (x : RegIdx) : (s.loadBlock x).mem = s.mem := by
  simp only [State.loadBlock]

/-! ### What each instruction does -/

theorem exec_ldI (nnn : Addr) (s : State) : exec (.ldI nnn) s = .next (s.setI (zext16 nnn)).advance := rfl

theorem exec_addI (x : RegIdx) (s : State) :
    exec (.addI x) s = .next (s.setI (trunc16 (s.i.toNat + (s.reg x).toNat))).advance := rfl

theorem exec_ldF (x : RegIdx) (s : State) :
    exec (.ldF x) s = .next (s.setI (trunc16 (0x050 + 5 * (s.reg x).toNat))).advance := rfl

theorem exec_ldB (x : RegIdx) (s : State) :
    exec (.ldB x) s = withTransfer (2 + 1) s (s.storeBytes (bcdDigits (s.reg x))) := rfl

theorem exec_storeRegs (x : RegIdx) (s : State) :
    exec (.storeRegs x) s = withTransfer (x.val + 1) s (s.storeBytes (s.regBlock x)) := rfl

theorem exec_loadRegs (x : RegIdx) (s : State) :
    exec (.loadRegs x) s = withTransfer (x.val + 1) s (s.loadBlock x).advance := rfl

/-! ### The statements -/

/-- Settles O32: in range, the three digits are the bytes of a store at `I`; each fits in a byte. -/
theorem bcdStoresDecimalDigits : Obligations.BcdStoresDecimalDigits := by
  intro x s
  refine ⟨encodedBy_of_row (Laws.Row.ldB x) (formatX_eq_suffix_first 0xF x 0x33), fun hm hr => ?_,
    withTransfer_of_last_gt _⟩
  obtain ⟨t, ht, hread, hkeeps⟩ := stores_bytes (exec_ldB x s) rfl hm hr
  obtain ⟨hhundreds, htens, hones⟩ := decimalDigits_toNat (s.reg x)
  refine ⟨t, ht, ?_, ?_, ?_, hkeeps⟩
  · exact (congrArg _ (hread 0 (show 0 < 3 by decide))).trans hhundreds
  · exact (congrArg _ (hread 1 (show 1 < 3 by decide))).trans htens
  · exact (congrArg _ (hread 2 (show 2 < 3 by decide))).trans hones

/-- Settles O33: in range, the block of `V0` to `Vx` is the bytes of a store at `I`. -/
theorem blockStoreWritesRegistersInOrder : Obligations.BlockStoreWritesRegistersInOrder := by
  intro x s
  refine ⟨encodedBy_of_row (Laws.Row.storeRegs x) (formatX_eq_suffix_first 0xF x 0x55), fun hm hr => ?_,
    withTransfer_of_last_gt _⟩
  obtain ⟨t, ht, hread, hkeeps⟩ := stores_bytes (exec_storeRegs x s) (s.length_regBlock x) hm hr
  refine ⟨t, ht, fun k hk => ?_, hkeeps⟩
  have hlt : k.val < (s.regBlock x).length := by rw [s.length_regBlock]; exact Nat.lt_succ_of_le hk
  rw [hread k.val hlt, s.getElem_regBlock]

/-- Settles O31: each writes `I` and advances; only `ADD I` can wrap. -/
theorem indexInstructionsWriteIndex : Obligations.IndexInstructionsWriteIndex := fun x nnn s =>
  ⟨encodedBy_of_row (Laws.Row.ldI nnn) rfl, encodedBy_of_row (Laws.Row.addI x) (formatX_eq_suffix_first 0xF x 0x1E),
    encodedBy_of_row (Laws.Row.ldF x) (formatX_eq_suffix_first 0xF x 0x29),
    ⟨_, exec_ldI nnn s, zext16_toNat nnn, fun _ => rfl, rfl⟩,
    ⟨_, exec_addI x s, BitVec.toNat_ofNat _ 16, fun _ => rfl, rfl⟩,
    ⟨_, exec_ldF x s, trunc16_glyph_toNat (s.reg x), fun _ => rfl, rfl⟩⟩

/-- Settles O34: in range, a register of the block is its byte of memory and a register above it is as before. -/
theorem blockLoadReadsRegistersInOrder : Obligations.BlockLoadReadsRegistersInOrder := by
  intro x s
  refine ⟨encodedBy_of_row (Laws.Row.loadRegs x) (formatX_eq_suffix_first 0xF x 0x65), fun hr => ?_,
    withTransfer_of_last_gt _⟩
  refine ⟨_, (exec_loadRegs x s).trans (withTransfer_of_last_le _ hr), fun k hk => ?_, fun k hk => ?_, fun a => ?_, rfl⟩
  · rw [State.reg_advance, State.reg_loadBlock, if_pos hk]
  · rw [State.reg_advance, State.reg_loadBlock, if_neg (not_le_of_gt hk)]
  · rw [State.advance_mem, State.loadBlock_mem]

end Sys2Proof.Machine
end

section
/-!
SUPPORT. Proofs of the family 44_display.md: clearing the screen, drawing the sprite at `I`, and the packed view
(R185 to R187).
-/

namespace Sys2Proof.Machine

/-! ### What each instruction does -/

theorem exec_cls (s : State) : exec .cls s = .next (s.setFb (blankScreen s.config)).advance := rfl

/-- What `DRW` draws: the pixels and the collision flag of the sprite at `I` (R186). -/
def State.drawn (s : State) (x y : RegIdx) (n : Nat) : Framebuffer × Bool :=
  xorSprite s.config (s.reg x).toNat (s.reg y).toNat (s.sprite n) s.fb

/-- R186: the flag is a register write of `VF` on the screen that has been drawn. -/
theorem exec_drw (x y : RegIdx) (n : Fin 16) (s : State) :
    exec (.drw x y n) s =
      withTransfer n.val s ((s.setFb (s.drawn x y n.val).1).writeReg vf (flagOf (s.drawn x y n.val).2)) := rfl

/-! ### The sprite at `I` (R186) -/

theorem State.length_sprite (s : State) (n : Nat) : (s.sprite n).length = n := by
  rw [State.sprite, memReadBytes, List.length_map, List.length_range]

theorem State.getElem?_sprite (s : State) {n dy : Nat} (h : dy < n) :
    (s.sprite n)[dy]? = some (memRead s.mem (s.i.toNat + dy)) := by
  rw [State.sprite, memReadBytes, List.getElem?_map, List.getElem?_range h]
  rfl

theorem State.drawn_zero (s : State) (x y : RegIdx) : s.drawn x y 0 = (s.fb, false) := rfl

theorem flagOf_toNat_bool (b : Bool) : (flagOf b).toNat = if b then 1 else 0 := by
  rw [← flagOf_toNat, Bool.decide_eq_true]

/-! ### The packed view (R185) -/

/-- Blocks of one length, laid end to end: the place of an entry counts the whole blocks before its own. -/
theorem getElem?_flatMap_range {α : Type} {g : Nat → List α} {m j : Nat} (hg : ∀ i, (g i).length = m) (hj : j < m) :
    ∀ {n i : Nat}, i < n → ((List.range n).flatMap g)[i * m + j]? = (g i)[j]?
  | n + 1, 0, _ => by
    rw [List.range_succ_eq_map, List.flatMap_cons, List.getElem?_append_left (by rw [hg]; omega), Nat.zero_mul,
      Nat.zero_add]
  | n + 1, i + 1, hi => by
    have hplace : (i + 1) * m + j - (g 0).length = i * m + j := by rw [hg, Nat.succ_mul]; omega
    rw [List.range_succ_eq_map, List.flatMap_cons, List.getElem?_append_right (by rw [hg, Nat.succ_mul]; omega),
      hplace, List.flatMap_map]
    exact getElem?_flatMap_range (fun i => hg (i + 1)) hj (Nat.lt_of_succ_lt_succ hi)

theorem length_flatMap_range {α : Type} {g : Nat → List α} {m : Nat} (hg : ∀ i, (g i).length = m) (n : Nat) :
    ((List.range n).flatMap g).length = n * m := by
  simp [List.length_flatMap, hg]

/-- The three bytes of one pixel. -/
def packedPixel (c : Config) (sr sg sb : Byte) (f : Framebuffer) (r k : Nat) : List Byte :=
  [channel (pixel c f r k) sr, channel (pixel c f r k) sg, channel (pixel c f r k) sb]

theorem length_packedPixel (c : Config) (sr sg sb : Byte) (f : Framebuffer) (r k : Nat) :
    (packedPixel c sr sg sb f r k).length = 3 := rfl

/-- The bytes of one row of pixels. -/
def packedRow (c : Config) (sr sg sb : Byte) (f : Framebuffer) (r : Nat) : List Byte :=
  (List.range c.cols).flatMap (packedPixel c sr sg sb f r)

theorem packedColor_eq_flatMap_packedRow (c : Config) (sr sg sb : Byte) (f : Framebuffer) :
    packedColor c sr sg sb f = (List.range c.rows).flatMap (packedRow c sr sg sb f) := rfl

theorem length_packedRow (c : Config) (sr sg sb : Byte) (f : Framebuffer) (r : Nat) :
    (packedRow c sr sg sb f r).length = c.cols * 3 :=
  length_flatMap_range (length_packedPixel c sr sg sb f r) c.cols

theorem length_packedColor (c : Config) (sr sg sb : Byte) (f : Framebuffer) :
    (packedColor c sr sg sb f).length = c.rows * c.cols * 3 := by
  rw [packedColor_eq_flatMap_packedRow, length_flatMap_range (length_packedRow c sr sg sb f), Nat.mul_assoc]

/-- Byte `j` of the pixel at row `r`, column `k`: the rows are blocks of the view, and the pixels blocks of a row. -/
theorem getElem?_packedColor {c : Config} (sr sg sb : Byte) (f : Framebuffer) {r k j : Nat} (hr : r < c.rows)
    (hk : k < c.cols) (hj : j < 3) :
    (packedColor c sr sg sb f)[3 * (r * c.cols + k) + j]? = (packedPixel c sr sg sb f r k)[j]? := by
  have hplace : 3 * (r * c.cols + k) + j = r * (c.cols * 3) + (k * 3 + j) := by ring
  rw [packedColor_eq_flatMap_packedRow, hplace,
    getElem?_flatMap_range (length_packedRow c sr sg sb f) (by omega) hr, packedRow,
    getElem?_flatMap_range (length_packedPixel c sr sg sb f r) hj hk]

/-! ### The statements -/

/-- Settles O41: in range, the screen drawn with the sprite at `I`, then a register write of the flag to `VF`. -/
theorem drawUsesSpriteAtIndex : Obligations.DrawUsesSpriteAtIndex := by
  intro x y n s
  refine ⟨encodedBy_of_row (Laws.Row.drw x y n) (formatXyn_eq 0xD x y n.val), fun hr => ?_, fun h => ?_⟩
  · refine ⟨_, s.sprite n.val, (exec_drw x y n s).trans (withTransfer_inRange _ hr), s.length_sprite n.val,
      fun dy => s.getElem?_sprite, rfl, ?_, fun hn => ?_, (s.setFb _).writeReg_keeps vf _⟩
    · rw [State.reg_writeReg_self, flagOf_toNat_bool]
      rfl
    · rw [hn, State.drawn_zero]
      exact ⟨rfl, State.reg_writeReg_self ..⟩
  · exact (exec_drw x y n s).trans (withTransfer_outOfRange _ (by omega))

/-- Settles O42: the length and each byte of a pixel, by the place of its block. -/
theorem packedViewHasThreeBytesPerPixel : Obligations.PackedViewHasThreeBytesPerPixel := by
  refine ⟨fun c sr sg sb f => ⟨length_packedColor c sr sg sb f, fun r k hr hk => ⟨?_, ?_, ?_⟩⟩, fun s => rfl⟩
  · exact getElem?_packedColor sr sg sb f hr hk (show 0 < 3 by decide)
  · exact getElem?_packedColor sr sg sb f hr hk (show 1 < 3 by decide)
  · exact getElem?_packedColor sr sg sb f hr hk (show 2 < 3 by decide)

/-- Settles O37: the cleared screen is the blank one, of full size and without a lit pixel. -/
theorem clearScreenZeroesEveryPixel : Obligations.ClearScreenZeroesEveryPixel :=
  ⟨encodedBy_of_row Laws.Row.cls rfl, fun s =>
    ⟨_, exec_cls s, length_blankScreen s.config, fun _ => eq_false_of_mem_blankScreen, fun _ => rfl, rfl⟩⟩

end Sys2Proof.Machine
end

section
/-!
SUPPORT. Proofs of the family 45_timers_keypad.md: the key queries, the timers and the key wait (R200 to R206), with
the frame's end that comes while a key wait is pending (R231, R242).
-/

namespace Sys2Proof.Machine

/-! ### What each instruction does -/

theorem exec_ldVxDt (x : RegIdx) (s : State) : exec (.ldVxDt x) s = .next (s.writeReg x s.dt) := rfl

theorem exec_ldDtVx (x : RegIdx) (s : State) :
    exec (.ldDtVx x) s = .next ({ s with dt := s.reg x } : State).advance := rfl

theorem exec_ldStVx (x : RegIdx) (s : State) :
    exec (.ldStVx x) s = .next ({ s with st := s.reg x } : State).advance := rfl

theorem exec_ldVxK (x : RegIdx) (s : State) : exec (.ldVxK x) s = .next { s with wait := some ⟨x, s.key⟩ } := rfl

theorem exec_skp (x : RegIdx) (s : State) : exec (.skp x) s = keyQuery x true s := rfl

theorem exec_sknp (x : RegIdx) (s : State) : exec (.sknp x) s = keyQuery x false s := rfl

/-- A key query in range sets `PC` alone. -/
theorem keyQuery_eq_setPc {x : RegIdx} {s : State} (down : Bool) (h : (s.reg x).toNat < 16) :
    keyQuery x down s = .next (s.setPc (skipPc s (s.key[(s.reg x).toNat] = down))) :=
  (keyQuery_inRange down h).trans (congrArg _ (skipIf_eq_setPc ..))

/-! ### The timers (R231, R236) -/

theorem State.soundOn_iff (s : State) : s.soundOn = true ↔ s.st ≠ 0 := bne_iff_ne

/-- R231: the countdown stops at 0, as the subtraction of numbers does. -/
theorem tick_toNat (b : Byte) : (tick b).toNat = b.toNat - 1 := by
  unfold tick
  split
  · next h => rw [h]; rfl
  · have := b.isLt
    exact trunc8_toNat_of_lt (by omega)

/-! ### The search for a new key (R206) -/

/-- The lowest new key is the one that the search answers: no two keys are the lowest. -/
theorem newKey_eq_some {now ref : Keys} {k : Fin 16} (hdown : now[k.val] = true) (hup : ref[k.val] = false)
    (hlow : ∀ j : Fin 16, j < k → ¬(now[j.val] = true ∧ ref[j.val] = false)) : newKey now ref = some k := by
  rcases newKey_cases now ref with ⟨k', hk', hdown', hup', hlow'⟩ | ⟨-, hnone⟩
  · have hle : k ≤ k' := not_lt.mp fun hlt => hlow k' hlt ⟨hdown', hup'⟩
    have hge : k' ≤ k := not_lt.mp fun hlt => hlow' k hlt ⟨hdown, hup⟩
    rw [hk', le_antisymm hge hle]
  · exact absurd ⟨hdown, hup⟩ (hnone k)

theorem newKey_eq_none {now ref : Keys} (h : ∀ k : Fin 16, ¬(now[k.val] = true ∧ ref[k.val] = false)) :
    newKey now ref = none := by
  rcases newKey_cases now ref with ⟨k, -, hdown, hup, -⟩ | ⟨hnone, -⟩
  · exact absurd ⟨hdown, hup⟩ (h k)
  · exact hnone

/-- R205: against the keys down now, no key is new. -/
theorem newKey_self (keys : Keys) : newKey keys keys = none :=
  newKey_eq_none fun _ ⟨hdown, hup⟩ => Bool.noConfusion (hdown.symm.trans hup)

/-! ### A cycle while a key wait is pending (R206) -/

theorem keyWaitCycle_of_some {w : KeyWait} {s : State} {k : Fin 16} (h : newKey s.key w.ref = some k) :
    keyWaitCycle w s = ({ s with wait := none } : State).writeReg w.x (trunc8 k.val) := by
  rw [keyWaitCycle, h]
  rfl

theorem keyWaitCycle_of_none {w : KeyWait} {s : State} (h : newKey s.key w.ref = none) :
    keyWaitCycle w s = { s with wait := some ⟨w.x, s.key⟩ } := by
  rw [keyWaitCycle, h]

/-- A pending key wait takes the place of fetch and execute, and its cycle is counted (R33, R78). -/
theorem step_of_wait {s : State} {slot : Nat} {w : KeyWait} (hn : CycleNext s slot) (hw : s.wait = some w) :
    step s = .next ((keyWaitCycle w s).counted slot) := by
  have htask : (keyWaitCycle w s).task = .live slot := by rw [keyWaitCycle_frame, hn.live]
  rw [step_of_cycleNext hn, coreCycle, hw]
  exact congrArg _ (countCycle_live htask)

/-! ### The statements -/

/-- Settles O10: the lowest new key completes the wait with a register write of its number, which fits in a byte;
without a new key the wait goes on from the keys down now; and a frame's end leaves the wait alone. -/
theorem keyWaitCycleTakesLowestNewKey : Obligations.KeyWaitCycleTakesLowestNewKey := by
  intro s w hw
  refine ⟨fun slot hn => ⟨fun k hdown hup hlow => ?_, fun hnone => ?_⟩, fun slot hn => ?_⟩
  · have hstep := step_of_wait hn hw
    rw [keyWaitCycle_of_some (newKey_eq_some hdown hup hlow)] at hstep
    obtain ⟨hother, -, -⟩ := ({ s with wait := none } : State).writeReg_keeps w.x (trunc8 k.val)
    refine ⟨_, hstep, ?_, hother, rfl⟩
    exact (congrArg _ (State.reg_writeReg_self ..)).trans (trunc8_toNat_of_lt (by omega))
  · rw [step_of_wait hn hw, keyWaitCycle_of_none (newKey_eq_none hnone)]
    rfl
  · exact ⟨_, step_of_frameEndNext hn, hw, rfl, tick_toNat s.dt, tick_toNat s.st, rfl, rfl⟩

/-- Settles O43: in range each query sets `PC` alone by the key's latch, and above 0xF it faults. -/
theorem keyQueriesReadTheLatch : Obligations.KeyQueriesReadTheLatch := fun x s =>
  ⟨encodedBy_of_row (Laws.Row.skp x) (formatX_eq_suffix_first 0xE x 0x9E),
    encodedBy_of_row (Laws.Row.sknp x) (formatX_eq_suffix_first 0xE x 0xA1),
    fun h => ⟨⟨_, (exec_skp x s).trans (keyQuery_eq_setPc true h), rfl, fun _ => rfl, rfl⟩,
      ⟨_, (exec_sknp x s).trans (keyQuery_eq_setPc false h), rfl, fun _ => rfl, rfl⟩⟩,
    fun h => ⟨(exec_skp x s).trans (keyQuery_outOfRange true h), (exec_sknp x s).trans (keyQuery_outOfRange false h)⟩⟩

/-- Settles O44: `Fx07` is a register write of `DT`, and each of the other two writes its timer. -/
theorem timerInstructionsCopy : Obligations.TimerInstructionsCopy := fun x s =>
  ⟨encodedBy_of_row (Laws.Row.ldVxDt x) (formatX_eq_suffix_first 0xF x 0x07),
    encodedBy_of_row (Laws.Row.ldDtVx x) (formatX_eq_suffix_first 0xF x 0x15),
    encodedBy_of_row (Laws.Row.ldStVx x) (formatX_eq_suffix_first 0xF x 0x18),
    ⟨_, exec_ldVxDt x s, s.reg_writeReg_self x s.dt, s.writeReg_keeps x s.dt⟩,
    ⟨_, exec_ldDtVx x s, fun _ => rfl, rfl⟩, ⟨_, exec_ldStVx x s, fun _ => rfl, rfl⟩, s.soundOn_iff⟩

/-- Settles O45: in the cycle after the entry no key is new against the keys that the wait has just remembered. -/
theorem keyWaitStartsWithKeysDownNow : Obligations.KeyWaitStartsWithKeysDownNow := by
  intro x s
  refine ⟨encodedBy_of_row (Laws.Row.ldVxK x) (formatX_eq_suffix_first 0xF x 0x0A), _, exec_ldVxK x s, fun _ => rfl, rfl,
    fun slot hn => ?_⟩
  rw [step_of_wait hn rfl, keyWaitCycle_of_none (newKey_self s.key)]

end Sys2Proof.Machine
end

section
/-!
SUPPORT. Proofs of the family 60_exceptions.md: not-found words (R221), precise and final faults (R222, R223, R226,
R227), and the end of a frame (R230 to R232).
-/

namespace Sys2Proof.Machine

/-! ### The cycle of a not-found word (R221) -/

theorem fetchWord_eq_of_toNat {s : State} {op : Half}
    (h : op.toNat = (memRead s.mem s.pc.toNat).toNat * 256 + (memRead s.mem (s.pc.toNat + 1)).toNat) :
    s.fetchWord = op :=
  BitVec.eq_of_toNat_eq ((wordOfBytes_toNat _ _).trans h.symm)

theorem decodeWord_of_fetchedBytes_error {s : State} {e : DecodeError} (h : decode (fetchedBytes s) = .error e) :
    decodeWord s.fetchWord = .error e := by
  simp only [fetchedBytes, decode] at h
  split at h
  · cases h
  · next hd => cases h; exact hd

theorem step_of_notFound {s : State} {slot : Nat} {e : DecodeError} (hn : FetchNext s slot)
    (hd : decodeWord s.fetchWord = .error e) : step s = .next (notFound s.fetchWord s).countCycle := by
  rw [step_of_fetchNext hn, fetchExecute, if_neg (Nat.not_lt.mpr hn.inRange), hd, thenDo_next]

/-- Settles O9: under `stay` and `advance` the cycle leaves the task alive and is counted, and under `halt` the fault
has ended the task. -/
theorem notFoundWordFollowsPolicy : Obligations.NotFoundWordFollowsPolicy := by
  intro s slot e op hn he hop
  have hw : s.fetchWord = op := fetchWord_eq_of_toNat hop
  have hstep : step s = .next (notFound op s).countCycle :=
    hw ▸ step_of_notFound hn (decodeWord_of_fetchedBytes_error he)
  refine ⟨_, rfl, fun hp => ?_, fun hp => ?_, fun hp => ?_⟩ <;> simp only [hstep, notFound, hp]
  · exact congrArg _ (countCycle_live (s := s.report op) hn.live)
  · exact congrArg _ (countCycle_live (s := (s.report op).advance) hn.live)
  · exact congrArg _ (countCycle_exited (s := (s.report op).takeFault .unknownOpcode) rfl)

/-! ### Which faults a cycle can leave (R222, R223, R225) -/

/-- An instruction faults with the code of its own check, or leaves `FAULT` as it was. -/
theorem exec_fault_cases {i : Instr} {s t : State} (h : exec i s = .next t) :
    (faultOf i s = none ∧ t.fault = s.fault) ∨ ∃ c, faultOf i s = some c ∧ t = s.faulted c := by
  cases i with
  | call nnn =>
    rcases execCall_cases h with ⟨hs, rfl⟩ | ⟨hs, rfl⟩
    · exact .inl ⟨if_neg (by omega), rfl⟩
    · exact .inr ⟨_, if_pos hs, rfl⟩
  | ret =>
    rcases execRet_cases h with ⟨hs, rfl⟩ | ⟨hs, rfl⟩
    · exact .inl ⟨if_neg (by omega), rfl⟩
    · exact .inr ⟨_, if_pos hs, rfl⟩
  | seImm | sneImm | seReg | sneReg => cases h; exact .inl ⟨rfl, (KeepsOutside.skipIf _ _).fault⟩
  | skp x | sknp x =>
    by_cases hx : (s.reg x).toNat > 0xF
    · cases (keyQuery_outOfRange _ hx).symm.trans h
      exact .inr ⟨_, if_pos hx, rfl⟩
    · cases (keyQuery_inRange _ (by omega)).symm.trans h
      exact .inl ⟨if_neg hx, (KeepsOutside.skipIf _ _).fault⟩
  | drw | ldB | storeRegs | loadRegs =>
    rcases withTransfer_cases h with ⟨hr, rfl⟩ | ⟨hr, rfl⟩
    · exact .inl ⟨if_neg (by omega), rfl⟩
    · exact .inr ⟨_, if_pos (by omega), rfl⟩
  | _ => cases h; exact .inl ⟨rfl, rfl⟩

theorem faultOf_ne_unknownOpcode (i : Instr) (s : State) : faultOf i s ≠ some .unknownOpcode := by
  cases i with
  | call | ret | drw | ldB | storeRegs | loadRegs | skp | sknp => unfold faultOf; split <;> simp
  | _ => exact nofun

/-- Everything fetch and execute can do to `FAULT`: nothing, a precise fault, or the report of a not-found word and
then its precise fault. -/
theorem fetchExecute_fault_cases {s u : State} (h : fetchExecute s = .next u) :
    u.fault = s.fault ∨ (∃ c, c ≠ .unknownOpcode ∧ u = s.faulted c) ∨
      u = (s.report s.fetchWord).faulted .unknownOpcode := by
  rcases fetchExecute_cases h with ⟨-, rfl⟩ | ⟨-, i, -, hi⟩ | ⟨-, -, rfl⟩
  · exact .inr (.inl ⟨_, by decide, rfl⟩)
  · rcases exec_fault_cases hi with ⟨-, hf⟩ | ⟨c, hc, rfl⟩
    · exact .inl hf
    · exact .inr (.inl ⟨c, fun he => faultOf_ne_unknownOpcode i s (he ▸ hc), rfl⟩)
  · rcases notFound_cases s.fetchWord s with ⟨-, hs⟩ | ⟨-, hs⟩ | ⟨-, hs⟩ <;> rw [hs]
    · exact .inl rfl
    · exact .inl rfl
    · exact .inr (.inr rfl)

@[simp] theorem State.countCycle_fault (s : State) : s.countCycle.fault = s.fault := by
  unfold State.countCycle
  split <;> rfl

/-- The same of a whole core cycle: a pending key wait cannot fault, and a fault's cycle is not counted. -/
theorem coreCycle_fault_cases {s t : State} (h : coreCycle s = .next t) :
    t.fault = s.fault ∨ (∃ c, c ≠ .unknownOpcode ∧ t = s.faulted c) ∨
      t = (s.report s.fetchWord).faulted .unknownOpcode := by
  rcases coreCycle_cases h with ⟨w, -, rfl⟩ | ⟨-, u, hu, rfl⟩
  · rw [State.countCycle_fault, keyWaitCycle_frame]
    exact .inl rfl
  · rcases fetchExecute_fault_cases hu with hf | ⟨c, hc, rfl⟩ | rfl
    · exact .inl ((State.countCycle_fault u).trans hf)
    · exact .inr (.inl ⟨c, hc, countCycle_exited rfl⟩)
    · exact .inr (.inr (countCycle_exited rfl))

@[simp] theorem joinReturns_fault (joined : Bool) (s : State) : (joinReturns joined s).fault = s.fault := by
  cases joined <;> rfl

/-- Without a pending host call only a core cycle changes `FAULT`. -/
theorem step_fault_cases {s t : State} (hc : s.hostCalls = []) (h : step s = .next t) :
    t.fault = s.fault ∨ coreCycle s = .next t := by
  rcases step_cases h with ⟨c, rest, hcons, -⟩ | ⟨-, -, -, rfl⟩ | ⟨slot, -, hcycle⟩ | ⟨slot, -, rfl⟩ |
    ⟨joined, rest, -, -, -, rfl⟩
  · exact absurd (hc.symm.trans hcons) nofun
  · exact .inl rfl
  · exact .inr hcycle
  · exact .inl rfl
  · exact .inl (joinReturns_fault ..)

/-- Settles O12: a fault that was not there before comes from a core cycle, which leaves it on the state before the
cycle, or, for a not-found word, on that state with the word's report. -/
theorem faultsArePrecise : Obligations.FaultsArePrecise := by
  intro s t code hs hc hstep ht
  have hnew : t.fault ≠ s.fault := by rw [ht, hs]; exact nofun
  have hcycle : coreCycle s = .next t := (step_fault_cases hc hstep).resolve_left hnew
  rcases (coreCycle_fault_cases hcycle).resolve_left hnew with ⟨c, hne, rfl⟩ | rfl
  · obtain rfl : c = code := Option.some.inj ht
    exact ⟨fun _ => rfl, fun he => absurd he hne⟩
  · obtain rfl : .unknownOpcode = code := Option.some.inj ht
    exact ⟨fun hne => absurd rfl hne, fun _ => ⟨rfl, s.fetchWord, rfl⟩⟩

/-! ### The host's side of a stopped machine (R265, R266, R227) -/

theorem hostStart_of_not_idle (spawned : Bool) {s : State} (h : s.life ≠ .idle) :
    hostStart spawned s = s.replyWith (.error .invalidState) :=
  if_neg h

theorem hostStop_of_not_running (joined : Bool) {s : State} (h : s.life ≠ .running) :
    hostStop joined s = s.replyWith (.error .invalidState) :=
  if_neg h

/-- On a stopped machine a host call replies, and writes at most `HOST_KEY`. -/
theorem takeHostCall_of_stopped (c : HostCall) {s : State} (h : s.life = .stopped) :
    ∃ keys r, takeHostCall c s = ({ s with hostKey := keys } : State).replyWith r := by
  cases c with
  | start spawned => exact ⟨s.hostKey, _, hostStart_of_not_idle spawned (by rw [h]; exact nofun)⟩
  | stop joined => exact ⟨s.hostKey, _, hostStop_of_not_running joined (by rw [h]; exact nofun)⟩
  | reinit => exact ⟨s.hostKey, _, rfl⟩
  | writeKeys keys => exact ⟨keys, _, rfl⟩

/-- On a stopped machine a waiting `stop()` replies and changes nothing else: `LIFE` is `Stopped` already. -/
theorem joinReturns_of_stopped (joined : Bool) {s : State} (h : s.life = .stopped) :
    ∃ r, joinReturns joined s = s.replyWith r := by
  cases joined with
  | false => exact ⟨_, rfl⟩
  | true => exact ⟨.done, by rw [joinReturns, if_pos rfl, ← h]⟩

/-- Settles O52: a faulted machine is stopped and its task has exited, so that a step can only take a host call or let
a waiting `stop()` return. -/
theorem faultIsFinal : Obligations.FaultIsFinal := by
  intro s t code hok hf hstep
  obtain ⟨htask, hlife⟩ := hok.fault (by rw [hf]; exact nofun)
  have hdead : ∀ slot, s.task ≠ .live slot := fun slot => by rw [htask]; exact nofun
  have hframe : t = { s with hostKey := t.hostKey, joining := t.joining, hostCalls := t.hostCalls,
                             replies := t.replies } := by
    rcases step_cases hstep with ⟨c, rest, -, rfl⟩ | ⟨-, hlive, -⟩ | ⟨slot, hn, -⟩ | ⟨slot, hn, -⟩ |
      ⟨joined, rest, -, -, -, rfl⟩
    · obtain ⟨keys, r, hc⟩ := takeHostCall_of_stopped c (s := { s with hostCalls := rest }) hlife
      rw [hc]
      rfl
    · exact absurd hlive (hdead 0)
    · exact absurd hn.live (hdead slot)
    · exact absurd hn.live (hdead slot)
    · obtain ⟨r, hr⟩ := joinReturns_of_stopped joined (s := { s with joining := rest }) hlife
      rw [hr]
      rfl
  exact ⟨(congrArg State.fault hframe).trans hf, (congrArg State.life hframe).trans hlife, hframe⟩

/-! ### The end of a frame (R230 to R232) -/

/-- Settles O46: the step is the model's `State.endFrame`, whose tick counts each timer down to 0 at the lowest. -/
theorem frameEndTicksThenHandsOff : Obligations.FrameEndTicksThenHandsOff := fun s _ hn =>
  ⟨_, step_of_frameEndNext hn, tick_toNat s.dt, tick_toNat s.st, rfl, rfl, rfl, rfl, fun _ => rfl, rfl⟩

end Sys2Proof.Machine
end

section
/-!
SUPPORT. Proofs about 30_encoding.md: encoding and decoding are inverse (R71, R74), the rows of the decode table are
disjoint (R75), and the fields of a word (R71).
-/

namespace Sys2Proof.Machine

/-! ### From an instruction to its word and back (R57, R71, R74) -/

theorem encode_selects_row (i : Instr) : Laws.Row.Statement i :=
  match i with
  | .idle => Laws.Row.idle
  | .cls => Laws.Row.cls
  | .ret => Laws.Row.ret
  | .jp nnn => Laws.Row.jp nnn
  | .call nnn => Laws.Row.call nnn
  | .seImm x kk => Laws.Row.seImm x kk
  | .sneImm x kk => Laws.Row.sneImm x kk
  | .seReg x y => Laws.Row.seReg x y
  | .ldImm x kk => Laws.Row.ldImm x kk
  | .addImm x kk => Laws.Row.addImm x kk
  | .ldReg x y => Laws.Row.ldReg x y
  | .orReg x y => Laws.Row.orReg x y
  | .andReg x y => Laws.Row.andReg x y
  | .xorReg x y => Laws.Row.xorReg x y
  | .addReg x y => Laws.Row.addReg x y
  | .sub x y => Laws.Row.sub x y
  | .shr x y => Laws.Row.shr x y
  | .subn x y => Laws.Row.subn x y
  | .shl x y => Laws.Row.shl x y
  | .sneReg x y => Laws.Row.sneReg x y
  | .ldI nnn => Laws.Row.ldI nnn
  | .jpV0 nnn => Laws.Row.jpV0 nnn
  | .rnd x kk => Laws.Row.rnd x kk
  | .drw x y n => Laws.Row.drw x y n
  | .skp x => Laws.Row.skp x
  | .sknp x => Laws.Row.sknp x
  | .ldVxDt x => Laws.Row.ldVxDt x
  | .ldVxK x => Laws.Row.ldVxK x
  | .ldDtVx x => Laws.Row.ldDtVx x
  | .ldStVx x => Laws.Row.ldStVx x
  | .addI x => Laws.Row.addI x
  | .ldF x => Laws.Row.ldF x
  | .ldB x => Laws.Row.ldB x
  | .storeRegs x => Laws.Row.storeRegs x
  | .loadRegs x => Laws.Row.loadRegs x

theorem decodeWord_encode (i : Instr) : decodeWord (encode i) = .ok i := by
  obtain ⟨r, hr, hs, hb⟩ := encode_selects_row i
  rw [decodeWord_of_selects hr hs, hb]

/-- Settles O1: the two bytes of the encoding are its word, which selects the instruction's own row. -/
theorem encodeThenDecodeReturnsInstruction : Obligations.EncodeThenDecodeReturnsInstruction := by
  intro i rest
  simp only [encodeBytes, bytesOfWord, List.cons_append, List.nil_append, decode, wordOfBytes_bytesOfWord,
    decodeWord_encode]

/-! ### From a word to its instruction and back (R71, R74) -/

theorem formatNnn_of_fieldNnn {op : Half} {major : Nat} (hm : op.toNat / 4096 = major) :
    formatNnn major (fieldNnn op) = op := by
  have := op.isLt
  apply BitVec.eq_of_toNat_eq
  rw [formatNnn_toNat (by omega), fieldNnn_toNat]
  omega

theorem formatXkk_of_fields {op : Half} {major : Nat} (hm : op.toNat / 4096 = major) :
    formatXkk major (fieldX op) (fieldKk op) = op := by
  have := op.isLt
  apply BitVec.eq_of_toNat_eq
  rw [formatXkk_toNat (by omega), fieldX_val, fieldKk_toNat]
  omega

theorem formatXyn_of_fields {op : Half} {major n : Nat} (hm : op.toNat / 4096 = major) (hn : op.toNat % 16 = n) :
    formatXyn major (fieldX op) (fieldY op) n = op := by
  have := op.isLt
  apply BitVec.eq_of_toNat_eq
  rw [formatXyn_toNat (by omega) (by omega), fieldX_val, fieldY_val]
  omega

theorem formatX_of_fieldX {op : Half} {major sub : Nat} (hm : op.toNat / 4096 = major) (hs : op.toNat % 256 = sub) :
    formatX major (fieldX op) sub = op := by
  have := op.isLt
  apply BitVec.eq_of_toNat_eq
  rw [formatX_toNat (by omega) (by omega), fieldX_val]
  omega

/-- Every word that the row selects is the encoding of what the row builds from it. -/
def RowInverts (r : DecodeRow) : Prop := ∀ op, r.selects op = true → encode (r.build (fieldsOf op)) = op

theorem inverts_of_mask_FFFF {m : String} {p : Half} {b : Fields → Instr} (hb : ∀ f, encode (b f) = p) :
    RowInverts ⟨m, 0xFFFF, p, b⟩ := by
  intro op hs
  simp only [DecodeRow.selects, selects_FFFF, decide_eq_true_eq] at hs
  rw [hb, BitVec.eq_of_toNat_eq hs]

theorem inverts_of_mask_F000 {m : String} {p : Half} {b : Fields → Instr}
    (hb : ∀ op, op.toNat / 4096 = p.toNat / 4096 → encode (b (fieldsOf op)) = op) :
    RowInverts ⟨m, 0xF000, p, b⟩ := by
  intro op hs
  simp only [DecodeRow.selects, selects_F000, decide_eq_true_eq] at hs
  exact hb op (by omega)

theorem inverts_of_mask_F00F {m : String} {p : Half} {b : Fields → Instr}
    (hb : ∀ op, op.toNat / 4096 = p.toNat / 4096 → op.toNat % 16 = p.toNat % 16 → encode (b (fieldsOf op)) = op) :
    RowInverts ⟨m, 0xF00F, p, b⟩ := by
  intro op hs
  simp only [DecodeRow.selects, selects_F00F, decide_eq_true_eq] at hs
  exact hb op (by omega) (by omega)

theorem inverts_of_mask_F0FF {m : String} {p : Half} {b : Fields → Instr}
    (hb : ∀ op, op.toNat / 4096 = p.toNat / 4096 → op.toNat % 256 = p.toNat % 256 → encode (b (fieldsOf op)) = op) :
    RowInverts ⟨m, 0xF0FF, p, b⟩ := by
  intro op hs
  simp only [DecodeRow.selects, selects_F0FF, decide_eq_true_eq] at hs
  exact hb op (by omega) (by omega)

theorem rowsLow_invert : ∀ r ∈ rowsLow, RowInverts r := by
  simp only [rowsLow, List.forall_mem_cons, List.not_mem_nil, false_implies, implies_true, and_true]
  exact ⟨inverts_of_mask_FFFF fun _ => rfl, inverts_of_mask_FFFF fun _ => rfl, inverts_of_mask_FFFF fun _ => rfl,
    inverts_of_mask_F000 fun _ => formatNnn_of_fieldNnn, inverts_of_mask_F000 fun _ => formatNnn_of_fieldNnn,
    inverts_of_mask_F000 fun _ => formatXkk_of_fields, inverts_of_mask_F000 fun _ => formatXkk_of_fields,
    inverts_of_mask_F00F fun _ => formatXyn_of_fields,
    inverts_of_mask_F000 fun _ => formatXkk_of_fields, inverts_of_mask_F000 fun _ => formatXkk_of_fields⟩

theorem rowsAlu_invert : ∀ r ∈ rowsAlu, RowInverts r := by
  simp only [rowsAlu, List.forall_mem_cons, List.not_mem_nil, false_implies, implies_true, and_true]
  refine ⟨?_, ?_, ?_, ?_, ?_, ?_, ?_, ?_, ?_⟩ <;> exact inverts_of_mask_F00F fun _ => formatXyn_of_fields

theorem rowsHigh_invert : ∀ r ∈ rowsHigh, RowInverts r := by
  simp only [rowsHigh, List.forall_mem_cons, List.not_mem_nil, false_implies, implies_true, and_true]
  exact ⟨inverts_of_mask_F00F fun _ => formatXyn_of_fields,
    inverts_of_mask_F000 fun _ => formatNnn_of_fieldNnn, inverts_of_mask_F000 fun _ => formatNnn_of_fieldNnn,
    inverts_of_mask_F000 fun _ => formatXkk_of_fields,
    inverts_of_mask_F000 fun op hm => formatXyn_of_fields hm (fieldN_val op).symm,
    inverts_of_mask_F0FF fun _ => formatX_of_fieldX, inverts_of_mask_F0FF fun _ => formatX_of_fieldX⟩

theorem rowsMisc_invert : ∀ r ∈ rowsMisc, RowInverts r := by
  simp only [rowsMisc, List.forall_mem_cons, List.not_mem_nil, false_implies, implies_true, and_true]
  refine ⟨?_, ?_, ?_, ?_, ?_, ?_, ?_, ?_, ?_⟩ <;> exact inverts_of_mask_F0FF fun _ => formatX_of_fieldX

theorem decodeTable_inverts : ∀ r ∈ decodeTable, RowInverts r := by
  simp only [decodeTable, List.forall_mem_append]
  exact ⟨⟨⟨rowsLow_invert, rowsAlu_invert⟩, rowsHigh_invert⟩, rowsMisc_invert⟩

/-- A word that decodes has selected a row, and is what that row builds from it. -/
theorem decodeWord_eq_ok {op : Half} {i : Instr} (h : decodeWord op = .ok i) :
    ∃ r ∈ decodeTable, r.selects op = true ∧ r.build (fieldsOf op) = i := by
  cases hf : decodeTable.find? (fun r => r.selects op) with
  | none => rw [decodeWord, hf] at h; exact nomatch h
  | some r =>
    rw [decodeWord, hf] at h
    exact ⟨r, List.mem_of_find?_eq_some hf, List.find?_some (p := fun r : DecodeRow => r.selects op) hf,
      Except.ok.inj h⟩

/-- Settles O2: the row that the word has selected takes the word's own fields and fixes its other bits. -/
theorem decodeThenEncodeReturnsWord : Obligations.DecodeThenEncodeReturnsWord := by
  intro op i h
  obtain ⟨r, hr, hs, rfl⟩ := decodeWord_eq_ok h
  exact decodeTable_inverts r hr op hs

/-! ### Disjoint rows, written-out words, fields (R71, R74, R75) -/

/-- Settles O3: two different rows of the table clash in a bit that both test. -/
theorem tableRowsAreDisjoint : Obligations.TableRowsAreDisjoint := by
  intro op r₁ r₂ hr₁ hr₂ hs₁ hs₂
  by_contra hne
  have := rowsClash_symm
  have hclash : RowsClash r₁ r₂ := decodeTable_pairwise_clash.forall hr₁ hr₂ fun he => hne (congrArg _ he)
  exact hclash.not_both_select (beq_iff_eq.mpr hs₁) (beq_iff_eq.mpr hs₂)

/-- Settles O5: each of the first seven is the encoding of its instruction; no row selects the last two words. -/
theorem writtenOutWordsDecode : Obligations.WrittenOutWordsDecode := by
  have h := fun i => encodeThenDecodeReturnsInstruction i []
  exact ⟨h .ret, h (.call 0xABC), h (.addImm 0xB 0x4D), h (.subn 0xC 0x3), h (.drw 0x9 0x5 0xF), h (.sknp 0x6),
    h (.ldB 0xE), rfl, rfl⟩

/-- Settles O6: each extracted field is a quotient and remainder of the word's number. -/
theorem fieldsAreTheirBitSlices : Obligations.FieldsAreTheirBitSlices := fun op =>
  ⟨fieldNnn_toNat op, fieldX_val op, fieldY_val op, fieldKk_toNat op, fieldN_val op⟩

end Sys2Proof.Machine
end

section
/-!
SUPPORT. Proofs about every instruction: which fields each can write (R21 to R37), its fault (R223, R225), and the
random draw (R141, R143).
-/

namespace Sys2Proof.Machine

/-! ### What each instruction writes when it does not fault -/

/-- The fields that an instruction may write when it does not fault; every other field is as before. -/
def Writes (i : Instr) (s t : State) : Prop :=
  match i with
  | .idle => t = s
  | .cls => t = { s with fb := t.fb, pc := t.pc }
  | .ret => t = { s with sp := t.sp, pc := t.pc }
  | .call _ => t = { s with stack := t.stack, sp := t.sp, pc := t.pc }
  | .jp _ | .jpV0 _ | .seImm _ _ | .sneImm _ _ | .seReg _ _ | .sneReg _ _ | .skp _ | .sknp _ =>
    t = { s with pc := t.pc }
  | .ldImm _ _ | .addImm _ _ | .ldReg _ _ | .orReg _ _ | .andReg _ _ | .xorReg _ _ | .addReg _ _ | .sub _ _ | .shr _ _
  | .subn _ _ | .shl _ _ | .ldVxDt _ | .loadRegs _ => t = { s with v := t.v, pc := t.pc }
  | .rnd _ _ => t = { s with v := t.v, pc := t.pc, draws := t.draws }
  | .drw _ _ _ => t = { s with fb := t.fb, v := t.v, pc := t.pc }
  | .ldI _ | .addI _ | .ldF _ => t = { s with i := t.i, pc := t.pc }
  | .ldB _ | .storeRegs _ => t = { s with mem := t.mem, pc := t.pc }
  | .ldDtVx _ => t = { s with dt := t.dt, pc := t.pc }
  | .ldStVx _ => t = { s with st := t.st, pc := t.pc }
  | .ldVxK _ => t = { s with wait := t.wait }

/-- Everything an instruction can do: write its own fields, or fault precisely with the code of its check (R225). -/
theorem exec_writes_or_faults {i : Instr} {s t : State} (h : exec i s = .next t) :
    (faultOf i s = none ∧ Writes i s t) ∨ ∃ c, faultOf i s = some c ∧ t = s.faulted c := by
  cases i with
  | call nnn =>
    rcases execCall_cases h with ⟨hs, rfl⟩ | ⟨hs, rfl⟩
    · exact .inl ⟨if_neg (by omega), rfl⟩
    · exact .inr ⟨_, if_pos hs, rfl⟩
  | ret =>
    rcases execRet_cases h with ⟨hs, rfl⟩ | ⟨hs, rfl⟩
    · exact .inl ⟨if_neg (by omega), rfl⟩
    · exact .inr ⟨_, if_pos hs, rfl⟩
  | seImm | sneImm | seReg | sneReg => cases h; exact .inl ⟨rfl, State.skipIf_frame s _ ▸ rfl⟩
  | skp x | sknp x =>
    by_cases hx : (s.reg x).toNat > 0xF
    · cases (keyQuery_outOfRange _ hx).symm.trans h
      exact .inr ⟨_, if_pos hx, rfl⟩
    · cases (keyQuery_inRange _ (by omega)).symm.trans h
      exact .inl ⟨if_neg hx, State.skipIf_frame s _ ▸ rfl⟩
  | drw | ldB | storeRegs | loadRegs =>
    rcases withTransfer_cases h with ⟨hr, rfl⟩ | ⟨hr, rfl⟩
    · exact .inl ⟨if_neg (by omega), rfl⟩
    · exact .inr ⟨_, if_pos (by omega), rfl⟩
  | _ => cases h; exact .inl ⟨rfl, rfl⟩

section
variable {i : Instr} {s t : State}

theorem Writes.keepsOutside (h : Writes i s t) : KeepsOutside s t := by
  cases i <;>
    exact ⟨(congrArg State.task h :), (congrArg State.fault h :), (congrArg State.running h :),
      (congrArg State.life h :), (congrArg State.config h :), (congrArg State.key h :), (congrArg State.hostKey h :),
      (congrArg State.pub h :), (congrArg State.cycles h :), (congrArg State.joining h :), (congrArg State.frames h :),
      (congrArg State.log h :), (congrArg State.hostCalls h :), (congrArg State.replies h :)⟩

theorem Writes.v_writer (h : Writes i s t) (hne : t.v ≠ s.v) : (∃ r, isDest i r = true) ∨ writesFlag i = true := by
  cases i with
  | ldImm x | addImm x | ldReg x | orReg x | andReg x | xorReg x | addReg x | sub x | shr x | subn x | shl x | rnd x
  | ldVxDt x => exact .inl ⟨x, decide_eq_true rfl⟩
  | loadRegs x => exact .inl ⟨x, decide_eq_true le_rfl⟩
  | drw => exact .inr rfl
  | _ => exact absurd (congrArg State.v h :) hne

theorem Writes.pc_writer (h : Writes i s t) (hne : t.pc ≠ s.pc) : i ≠ .idle ∧ ∀ x, i ≠ .ldVxK x := by
  cases i with
  | idle | ldVxK => exact absurd (congrArg State.pc h :) hne
  | _ => exact ⟨nofun, nofun⟩

theorem Writes.i_writer (h : Writes i s t) (hne : t.i ≠ s.i) :
    (∃ nnn, i = .ldI nnn) ∨ ∃ x, i = .addI x ∨ i = .ldF x := by
  cases i with
  | ldI nnn => exact .inl ⟨nnn, rfl⟩
  | addI x => exact .inr ⟨x, .inl rfl⟩
  | ldF x => exact .inr ⟨x, .inr rfl⟩
  | _ => exact absurd (congrArg State.i h :) hne

theorem Writes.mem_writer (h : Writes i s t) (hne : t.mem ≠ s.mem) : ∃ x, i = .ldB x ∨ i = .storeRegs x := by
  cases i with
  | ldB x => exact ⟨x, .inl rfl⟩
  | storeRegs x => exact ⟨x, .inr rfl⟩
  | _ => exact absurd (congrArg State.mem h :) hne

theorem Writes.stack_writer (h : Writes i s t) (hne : t.stack ≠ s.stack) : ∃ nnn, i = .call nnn := by
  cases i with
  | call nnn => exact ⟨nnn, rfl⟩
  | _ => exact absurd (congrArg State.stack h :) hne

theorem Writes.sp_writer (h : Writes i s t) (hne : t.sp ≠ s.sp) : (∃ nnn, i = .call nnn) ∨ i = .ret := by
  cases i with
  | call nnn => exact .inl ⟨nnn, rfl⟩
  | ret => exact .inr rfl
  | _ => exact absurd (congrArg State.sp h :) hne

theorem Writes.dt_writer (h : Writes i s t) (hne : t.dt ≠ s.dt) : ∃ x, i = .ldDtVx x := by
  cases i with
  | ldDtVx x => exact ⟨x, rfl⟩
  | _ => exact absurd (congrArg State.dt h :) hne

theorem Writes.st_writer (h : Writes i s t) (hne : t.st ≠ s.st) : ∃ x, i = .ldStVx x := by
  cases i with
  | ldStVx x => exact ⟨x, rfl⟩
  | _ => exact absurd (congrArg State.st h :) hne

theorem Writes.fb_writer (h : Writes i s t) (hne : t.fb ≠ s.fb) : i = .cls ∨ ∃ x y n, i = .drw x y n := by
  cases i with
  | cls => exact .inl rfl
  | drw x y n => exact .inr ⟨x, y, n, rfl⟩
  | _ => exact absurd (congrArg State.fb h :) hne

theorem Writes.wait_writer (h : Writes i s t) (hne : t.wait ≠ s.wait) : ∃ x, i = .ldVxK x := by
  cases i with
  | ldVxK x => exact ⟨x, rfl⟩
  | _ => exact absurd (congrArg State.wait h :) hne

theorem Writes.draws_writer (h : Writes i s t) (hne : t.draws ≠ s.draws) : ∃ x kk, i = .rnd x kk := by
  cases i with
  | rnd x kk => exact ⟨x, kk, rfl⟩
  | _ => exact absurd (congrArg State.draws h :) hne

end

/-- Settles O30: an instruction that does not fault writes its own fields alone, and one that faults writes none but
those of the fault. -/
theorem eachFieldHasItsWriters : Obligations.EachFieldHasItsWriters := by
  intro i s t h
  rcases exec_writes_or_faults h with ⟨hf, hw⟩ | ⟨c, hf, rfl⟩
  · have hk := hw.keepsOutside
    exact ⟨hw.v_writer, hw.pc_writer, hw.i_writer, hw.mem_writer, hw.stack_writer, hw.sp_writer, hw.dt_writer,
      hw.st_writer, hw.fb_writer, hw.wait_writer, hw.draws_writer,
      fun _ => ⟨hk.fault, hk.running, hk.life, hk.task⟩, fun _ hc => absurd (hf.symm.trans hc) nofun,
      hk.config, hk.key, hk.hostKey, hk.pub, hk.cycles, hk.joining, hk.frames, hk.log, hk.hostCalls, hk.replies⟩
  · exact ⟨absurd rfl, absurd rfl, absurd rfl, absurd rfl, absurd rfl, absurd rfl, absurd rfl, absurd rfl, absurd rfl,
      absurd rfl, absurd rfl, fun hn => absurd (hf.symm.trans hn) nofun,
      fun _ hc => congrArg _ (Option.some.inj (hf.symm.trans hc)),
      rfl, rfl, rfl, rfl, rfl, rfl, rfl, rfl, rfl, rfl⟩

/-! ### The registers (R21, R22) -/

theorem State.reg_of_v_eq {s t : State} (h : t.v = s.v) (r : RegIdx) : t.reg r = s.reg r := by
  rw [State.reg, State.reg, h]

/-- Settles O29: the destination is the register of a register write, a flag writer writes `VF` after it, and a block
load stops at `Vx`. -/
theorem onlyNamedRegistersAndFlagChange : Obligations.OnlyNamedRegistersAndFlagChange := by
  intro i s t r h hd hv
  rcases exec_writes_or_faults h with ⟨-, hw⟩ | ⟨c, -, rfl⟩
  · cases i with
    | ldImm | addImm | ldReg | orReg | andReg | xorReg | ldVxDt =>
      cases h
      exact (s.writeReg_keeps _ _).1 r (of_decide_eq_false hd)
    | rnd =>
      cases h
      exact (State.writeReg_keeps _ _ _).1 r (of_decide_eq_false hd)
    | addReg | sub | shr | subn | shl =>
      cases h
      exact (s.writeWithFlag_keeps _ _ _).1 r (of_decide_eq_false hd) (hv rfl)
    | drw x y n =>
      rw [exec_drw] at h
      rcases withTransfer_cases h with ⟨-, rfl⟩ | ⟨-, rfl⟩
      · exact (State.writeReg_keeps _ _ _).1 r (hv rfl)
      · rfl
    | loadRegs x =>
      rw [exec_loadRegs] at h
      rcases withTransfer_cases h with ⟨-, rfl⟩ | ⟨-, rfl⟩
      · exact (State.reg_loadBlock s x r).trans (if_neg (of_decide_eq_false hd))
      · rfl
    | _ => exact State.reg_of_v_eq (congrArg State.v hw :) r
  · rfl

/-! ### The fault of an instruction (R220, R223, R225) -/

/-- Settles O13: without a fault before, the fault after is the one of the instruction's own check. -/
theorem eachFaultHasItsCause : Obligations.EachFaultHasItsCause := by
  intro i s t hs h
  rcases exec_fault_cases h with ⟨hf, ht⟩ | ⟨c, hf, rfl⟩
  · rw [ht, hs, hf]
  · exact hf.symm

/-- Settles O14: a failed check is a fault that is taken, and nothing else could stop an instruction. -/
theorem everyInstructionReachesNextState : Obligations.EveryInstructionReachesNextState := exec_total

/-! ### The random draw (R141, R143) -/

theorem exec_rnd (x : RegIdx) (kk : Byte) (s : State) :
    exec (.rnd x kk) s = .next (({ s with draws := s.draws + 1 } : State).writeReg x (Config.draw8 s.draws &&& kk)) :=
  rfl

/-- Settles O28: a register write of the masked draw, after the counter has moved on. -/
theorem randomMasksFreshDraw : Obligations.RandomMasksFreshDraw := by
  intro x kk s
  obtain ⟨hother, -, -⟩ := ({ s with draws := s.draws + 1 } : State).writeReg_keeps x (Config.draw8 s.draws &&& kk)
  refine ⟨encodedBy_of_row (Laws.Row.rnd x kk) (formatXkk_eq 0xC x kk), _, exec_rnd x kk s, fun k => ?_, hother,
    fun _ => rfl, rfl⟩
  rw [State.reg_writeReg_self, BitVec.getLsbD_and]

end Sys2Proof.Machine
end

section
/-!
SUPPORT. Proofs about 20_memory.md: a read returns the most recent write, equal contents are equal data (R59, R60), and
a fetch sees what a store has just written (R62).
-/

namespace Sys2Proof.Machine

/-! ### Any sequence of writes (R60) -/

/-- Writes at the given addresses, oldest first. -/
def memWriteAll (m : Memory) (writes : List (Nat × Byte)) : Memory :=
  writes.foldl (fun m w => memWrite m w.1 w.2) m

theorem memWriteAll_concat (m : Memory) (ws : List (Nat × Byte)) (w : Nat × Byte) :
    memWriteAll m (ws ++ [w]) = memWrite (memWriteAll m ws) w.1 w.2 := by
  rw [memWriteAll, List.foldl_concat, memWriteAll]

theorem memWriteAll_wf {writes : List (Nat × Byte)} : ∀ {m : Memory}, m.wf = true → (∀ w ∈ writes, w.1 ≤ 0xFFF) →
    (memWriteAll m writes).wf = true := by
  induction writes with
  | nil => exact fun hm _ => hm
  | cons w ws ih =>
    intro m hm hr
    obtain ⟨hw, hws⟩ := List.forall_mem_cons.mp hr
    exact ih (memWrite_wf w.2 hm hw) hws

theorem memRead_memWriteAll {m : Memory} (hm : m.wf = true) (a : Nat) {writes : List (Nat × Byte)}
    (hr : ∀ w ∈ writes, w.1 ≤ 0xFFF) :
    memRead (memWriteAll m writes) a =
      ((writes.reverse.find? fun w => decide (w.1 = a)).map Prod.snd).getD (memRead m a) := by
  induction writes using List.reverseRecOn with
  | nil => rfl
  | append_singleton ws w ih =>
    obtain ⟨hws, -⟩ := List.forall_mem_append.mp hr
    rw [memWriteAll_concat, memRead_memWrite (memWriteAll_wf hm hws), ih hws, List.reverse_concat, List.find?_cons]
    by_cases hwa : w.1 = a
    · simp [hwa]
    · simp [hwa, Ne.symm hwa]

/-! ### One form of memory for each contents (R59, log entry 12) -/

/-- The address of the first listed byte of a canonical memory tells it from one that lists nothing up to there. -/
theorem memRead_ne_of_listed {a : Nat} {b : Byte} {m m' : Memory} (hb : b ≠ memInitial a)
    (hm' : Memory.wfFrom (a + 1) m' = true) : memRead ((a, b) :: m) a ≠ memRead m' a := by
  rw [memRead, if_pos rfl, memRead_below hm' (Nat.lt_succ_self a)]
  exact hb

theorem eq_of_memRead_eq : ∀ {lo : Nat} {m₁ m₂ : Memory}, Memory.wfFrom lo m₁ = true → Memory.wfFrom lo m₂ = true →
    (∀ a, memRead m₁ a = memRead m₂ a) → m₁ = m₂
  | _, [], [], _, _, _ => rfl
  | _, [], (a, b) :: m, _, h₂, hr => by
    obtain ⟨-, -, hb, -⟩ := Memory.wfFrom_cons.mp h₂
    exact absurd (hr a).symm (memRead_ne_of_listed hb rfl)
  | _, (a, b) :: m, [], h₁, _, hr => by
    obtain ⟨-, -, hb, -⟩ := Memory.wfFrom_cons.mp h₁
    exact absurd (hr a) (memRead_ne_of_listed hb rfl)
  | lo, (a₁, b₁) :: m₁, (a₂, b₂) :: m₂, h₁, h₂, hr => by
    obtain ⟨-, hr₁, hb₁, hm₁⟩ := Memory.wfFrom_cons.mp h₁
    obtain ⟨-, hr₂, hb₂, hm₂⟩ := Memory.wfFrom_cons.mp h₂
    rcases lt_trichotomy a₁ a₂ with hlt | rfl | hgt
    · exact absurd (hr a₁) (memRead_ne_of_listed hb₁ (Memory.wfFrom_cons.mpr ⟨hlt, hr₂, hb₂, hm₂⟩))
    · have hb : b₁ = b₂ := by simpa only [memRead, if_pos] using hr a₁
      have htail : ∀ a, memRead m₁ a = memRead m₂ a := fun a => by
        by_cases ha : a₁ = a
        · subst ha
          rw [memRead_below hm₁ (Nat.lt_succ_self _), memRead_below hm₂ (Nat.lt_succ_self _)]
        · simpa only [memRead, if_neg ha] using hr a
      rw [hb, eq_of_memRead_eq hm₁ hm₂ htail]
    · exact absurd (hr a₂).symm (memRead_ne_of_listed hb₂ (Memory.wfFrom_cons.mpr ⟨hgt, hr₁, hb₁, hm₁⟩))

/-- Settles O35: by induction from the newest write on, and on the two lists of bytes. -/
theorem readReturnsMostRecentWrite : Obligations.ReadReturnsMostRecentWrite := by
  refine ⟨fun m writes a hm hr => ?_, fun m₁ m₂ => eq_of_memRead_eq⟩
  refine (memRead_memWriteAll hm a hr).trans ?_
  split <;> next h => rw [h]; rfl

/-! ### A fetch after a store (R57, R62) -/

theorem fetchWord_toNat_of_memRead {t : State} {b : Nat → Byte} (h : ∀ a, memRead t.mem a = b a) :
    t.fetchWord.toNat = (b t.pc.toNat).toNat * 256 + (b (t.pc.toNat + 1)).toNat := by
  rw [State.fetchWord, wordOfBytes_toNat, h, h]

/-- Settles O36: after each store every byte of memory reads as `b` says, and so do the two at `PC`. -/
theorem nextFetchSeesStore : Obligations.NextFetchSeesStore := by
  intro x s b hm
  refine ⟨fun hr hregs hout => ?_, fun hr h₀ h₁ h₂ hout => ?_⟩
  · obtain ⟨-, hstore, -⟩ := blockStoreWritesRegistersInOrder x s
    obtain ⟨t, ht, hread, hkeeps, -⟩ := hstore hm hr
    refine ⟨t, ht, fetchWord_toNat_of_memRead fun a => ?_⟩
    by_cases ha : s.i.toNat ≤ a ∧ a ≤ s.i.toNat + x.val
    · obtain ⟨k, rfl⟩ := Nat.exists_eq_add_of_le ha.1
      have hk : (⟨k, by omega⟩ : RegIdx) ≤ x := Fin.mk_le_of_le_val (by omega)
      exact (hread _ hk).trans (hregs _ hk).symm
    · rw [hkeeps a (by omega), hout a (by omega)]
  · obtain ⟨-, hstore, -⟩ := bcdStoresDecimalDigits x s
    obtain ⟨t, ht, ht₀, ht₁, ht₂, hkeeps, -⟩ := hstore hm hr
    refine ⟨t, ht, fetchWord_toNat_of_memRead fun a => ?_⟩
    have ha : a = s.i.toNat ∨ a = s.i.toNat + 1 ∨ a = s.i.toNat + 2 ∨ (a < s.i.toNat ∨ s.i.toNat + 2 < a) := by omega
    rcases ha with rfl | rfl | rfl | ha
    · exact BitVec.eq_of_toNat_eq (ht₀.trans h₀.symm)
    · exact BitVec.eq_of_toNat_eq (ht₁.trans h₁.symm)
    · exact BitVec.eq_of_toNat_eq (ht₂.trans h₂.symm)
    · rw [hkeeps a (by omega), hout a ha]

end Sys2Proof.Machine
end

section
/-!
SUPPORT. Proofs about 44_display.md: what a drawn sprite does to each cell and to the collision flag, and drawing it
twice (R182, R183, R188).
-/

namespace Sys2Proof.Machine

/-! ### The bits of a sprite -/

/-- The places of a sprite's bits, row by row and from the left (R182). -/
def spritePlaces (height : Nat) : List (Nat × Nat) :=
  (List.range height).flatMap fun dy => (List.range 8).map fun dx => (dy, dx)

theorem mem_spritePlaces {height : Nat} {d : Nat × Nat} : d ∈ spritePlaces height ↔ d.1 < height ∧ d.2 < 8 := by
  obtain ⟨dy, dx⟩ := d
  simp [spritePlaces]

theorem nodup_spritePlaces (height : Nat) : (spritePlaces height).Nodup :=
  List.nodup_range.product List.nodup_range

/-- The bit of a sprite at a place. -/
def spriteBitAt (sprite : List Byte) (d : Nat × Nat) : Bool := spriteBit (sprite.getD d.1 0) d.2

/-- The row and column of the cell that a place of a sprite lands on; both wrap (R182). -/
def spriteCell (c : Config) (col row : Nat) (d : Nat × Nat) : Nat × Nat := ((row + d.1) % c.rows, (col + d.2) % c.cols)

/-- The place carries a bit 1 that lands on the cell. -/
def hitsCell (c : Config) (col row : Nat) (sprite : List Byte) (cell d : Nat × Nat) : Bool :=
  decide (spriteCell c col row d = cell) && spriteBitAt sprite d

theorem xorSpriteBit_eq_xorCell (c : Config) (col row : Nat) (sprite : List Byte) (acc : Framebuffer × Bool)
    (d : Nat × Nat) :
    xorSpriteBit c col row sprite acc d =
      xorCell c (spriteCell c col row d).1 (spriteCell c col row d).2 (spriteBitAt sprite d) acc := rfl

theorem xorSprite_eq_foldl_places (c : Config) (col row : Nat) (sprite : List Byte) (f : Framebuffer) :
    xorSprite c col row sprite f =
      (spritePlaces sprite.length).foldl (xorSpriteBit c col row sprite) (f, false) :=
  xorSprite_eq_foldl c col row sprite f

theorem spriteHits_eq_countP (c : Config) (col row : Nat) (sprite : List Byte) (r k : Nat) :
    spriteHits c col row sprite r k =
      (spritePlaces sprite.length).countP (hitsCell c col row sprite (r, k)) := by
  have hbit : ∀ dy dx, hitsCell c col row sprite (r, k) (dy, dx) =
      decide ((row + dy) % c.rows = r ∧ (col + dx) % c.cols = k ∧ (sprite.getD dy 0).toNat / 2 ^ (7 - dx) % 2 = 1) := by
    intro dy dx
    simp [hitsCell, spriteCell, spriteBitAt, spriteBit_eq, Bool.and_assoc]
  simp only [spriteHits, spritePlaces, List.countP_flatMap, List.countP_map, Function.comp_def, hbit]

theorem spriteMeets_iff (c : Config) (col row : Nat) (sprite : List Byte) (f : Framebuffer) (was : Bool) :
    spriteMeets c col row sprite f was ↔
      ∃ d ∈ spritePlaces sprite.length, spriteBitAt sprite d = true ∧
        pixel c f (spriteCell c col row d).1 (spriteCell c col row d).2 = was := by
  simp only [spriteMeets, mem_spritePlaces, Prod.exists, and_assoc, spriteBitAt, spriteCell, spriteBit_eq,
    decide_eq_true_eq]

/-! ### The pixels after a sprite (R182) -/

section
variable {c : Config} {col row : Nat} {sprite : List Byte}

theorem spriteCell_fst_lt (d : Nat × Nat) : (spriteCell c col row d).1 < c.rows := Nat.mod_lt _ c.rows_pos

theorem spriteCell_snd_lt (d : Nat × Nat) : (spriteCell c col row d).2 < c.cols := Nat.mod_lt _ c.cols_pos

theorem pixel_xorSpriteBit {acc : Framebuffer × Bool} (hl : acc.1.length = c.rows * c.cols) (d : Nat × Nat) (r : Nat)
    {k : Nat} (hk : k < c.cols) :
    pixel c (xorSpriteBit c col row sprite acc d).1 r k =
      (pixel c acc.1 r k ^^ hitsCell c col row sprite (r, k) d) := by
  rw [xorSpriteBit_eq_xorCell, pixel_xorCell _ hl (spriteCell_fst_lt d) (spriteCell_snd_lt d) hk, hitsCell]
  simp only [Prod.ext_iff]

/-- Each bit 1 that lands on a cell toggles it, so the parity of their number decides. -/
theorem pixel_foldl_xorSpriteBit (r : Nat) {k : Nat} (hk : k < c.cols) : ∀ (ds : List (Nat × Nat))
    {acc : Framebuffer × Bool}, acc.1.length = c.rows * c.cols →
    pixel c (ds.foldl (xorSpriteBit c col row sprite) acc).1 r k =
      (pixel c acc.1 r k ^^ decide (ds.countP (hitsCell c col row sprite (r, k)) % 2 = 1))
  | [], acc, _ => by simp
  | d :: ds, acc, hl => by
    have hl' : (xorSpriteBit c col row sprite acc d).1.length = c.rows * c.cols := (xorCell_length ..).trans hl
    rw [List.foldl_cons, pixel_foldl_xorSpriteBit r hk ds hl', pixel_xorSpriteBit hl d r hk, List.countP_cons,
      Bool.xor_assoc]
    congr 1
    rcases Nat.mod_two_eq_zero_or_one (ds.countP (hitsCell c col row sprite (r, k))) with h | h <;>
      cases hitsCell c col row sprite (r, k) d <;> simp [Nat.add_mod, h]

end

/-- R182: a cell after a sprite. -/
theorem pixel_xorSprite {c : Config} {f : Framebuffer} (hl : f.length = c.rows * c.cols) (col row : Nat)
    (sprite : List Byte) (r : Nat) {k : Nat} (hk : k < c.cols) :
    pixel c (xorSprite c col row sprite f).1 r k =
      (pixel c f r k ^^ decide (spriteHits c col row sprite r k % 2 = 1)) := by
  rw [xorSprite_eq_foldl_places, pixel_foldl_xorSpriteBit r hk _ (acc := (f, false)) hl, spriteHits_eq_countP]

/-- Settles O38: one pass over the bits in the written order, each toggling its own cell when it is 1. -/
theorem spriteXorsEachCellItLandsOn : Obligations.SpriteXorsEachCellItLandsOn :=
  fun c col row sprite f r _ hl _ hk =>
    ⟨(xorSprite_length c col row sprite f).trans hl, pixel_xorSprite hl col row sprite r hk⟩

/-! ### The collision flag where no cell is visited twice (R183) -/

theorem spriteCell_injective {c : Config} {height : Nat} (hfits : c.spriteFits height = true) (col row : Nat)
    {d d' : Nat × Nat} (hd : d ∈ spritePlaces height) (hd' : d' ∈ spritePlaces height)
    (h : spriteCell c col row d = spriteCell c col row d') : d = d' := by
  obtain ⟨hcols, hrows⟩ := (spriteFits_iff c height).mp hfits
  obtain ⟨hdy, hdx⟩ := mem_spritePlaces.mp hd
  obtain ⟨hdy', hdx'⟩ := mem_spritePlaces.mp hd'
  obtain ⟨hrow, hcol⟩ := Prod.mk.inj h
  exact Prod.ext (offset_inj_of_add_mod_eq (hdy.trans_le hrows) (hdy'.trans_le hrows) hrow)
    (offset_inj_of_add_mod_eq (hdx.trans_le hcols) (hdx'.trans_le hcols) hcol)

/-- Where the sprite fits, its places land on cells that all differ. -/
theorem pairwise_spriteCell_ne {c : Config} {height : Nat} (hfits : c.spriteFits height = true) (col row : Nat) :
    (spritePlaces height).Pairwise fun d d' => spriteCell c col row d ≠ spriteCell c col row d' :=
  (nodup_spritePlaces height).imp_of_mem fun hd hd' hne h => hne (spriteCell_injective hfits col row hd hd' h)

/-- While no cell is visited twice, each bit meets its cell as it was before the first of them. -/
theorem flag_foldl_xorSpriteBit {c : Config} {col row : Nat} {sprite : List Byte} : ∀ {ds : List (Nat × Nat)}
    {acc : Framebuffer × Bool}, acc.1.length = c.rows * c.cols →
    ds.Pairwise (fun d d' => spriteCell c col row d ≠ spriteCell c col row d') →
    ((ds.foldl (xorSpriteBit c col row sprite) acc).2 = true ↔
      acc.2 = true ∨ ∃ d ∈ ds, spriteBitAt sprite d = true ∧
        pixel c acc.1 (spriteCell c col row d).1 (spriteCell c col row d).2 = true)
  | [], acc, _, _ => by simp
  | d :: ds, acc, hl, hp => by
    obtain ⟨hne, hp'⟩ := List.pairwise_cons.mp hp
    have hl' : (xorSpriteBit c col row sprite acc d).1.length = c.rows * c.cols := (xorCell_length ..).trans hl
    have hsame : ∀ d' ∈ ds,
        pixel c (xorSpriteBit c col row sprite acc d).1 (spriteCell c col row d').1 (spriteCell c col row d').2 =
          pixel c acc.1 (spriteCell c col row d').1 (spriteCell c col row d').2 := fun d' hd' => by
      rw [pixel_xorSpriteBit hl d _ (spriteCell_snd_lt d'), hitsCell, decide_eq_false (hne d' hd'), Bool.false_and,
        Bool.xor_false]
    have hflag : (xorSpriteBit c col row sprite acc d).2 = true ↔ acc.2 = true ∨ (spriteBitAt sprite d = true ∧
        pixel c acc.1 (spriteCell c col row d).1 (spriteCell c col row d).2 = true) := by
      rw [xorSpriteBit_eq_xorCell, xorCell_flag, Bool.or_eq_true, Bool.and_eq_true, and_comm (a := pixel ..  = true)]
    rw [List.foldl_cons, flag_foldl_xorSpriteBit hl' hp', hflag, List.exists_mem_cons_iff, or_assoc]
    refine or_congr_right (or_congr_right (exists_congr fun d' => and_congr_right fun hd' => ?_))
    rw [hsame d' hd']

/-- Settles O39: with no cell visited twice, every bit 1 meets the cell that the sprite found there. -/
theorem collisionFlagMeansLitPixelErased : Obligations.CollisionFlagMeansLitPixelErased := by
  intro c col row sprite f hfits hl
  rw [xorSprite_eq_foldl_places, flag_foldl_xorSpriteBit (acc := (f, false)) hl (pairwise_spriteCell_ne hfits col row),
    spriteMeets_iff]
  simp

/-! ### Drawing a sprite twice (R188) -/

/-- A screen is its pixels. -/
theorem screen_ext {c : Config} {f g : Framebuffer} (hf : f.length = c.rows * c.cols) (hg : g.length = c.rows * c.cols)
    (h : ∀ r k, k < c.cols → pixel c f r k = pixel c g r k) : f = g := by
  refine List.ext_getElem (hf.trans hg.symm) fun n hn hn' => ?_
  have hcell : cellIndex c (n / c.cols) (n % c.cols) = n := Nat.div_add_mod' n c.cols
  have hpix := h (n / c.cols) (n % c.cols) (Nat.mod_lt _ c.cols_pos)
  rwa [pixel, pixel, hcell, List.getD_eq_getElem _ _ hn, List.getD_eq_getElem _ _ hn'] at hpix

theorem xorSprite_twice {c : Config} {f : Framebuffer} (hl : f.length = c.rows * c.cols) (col row : Nat)
    (sprite : List Byte) : (xorSprite c col row sprite (xorSprite c col row sprite f).1).1 = f := by
  have hl' := (xorSprite_length c col row sprite f).trans hl
  refine screen_ext ((xorSprite_length ..).trans hl') hl fun r k hk => ?_
  rw [pixel_xorSprite hl' col row sprite r hk, pixel_xorSprite hl col row sprite r hk, Bool.xor_assoc, Bool.xor_self,
    Bool.xor_false]

/-- Where the sprite fits, a cell visited with bit 1 is hit once. -/
theorem spriteHits_eq_one {c : Config} {col row : Nat} {sprite : List Byte} {d : Nat × Nat}
    (hfits : c.spriteFits sprite.length = true) (hd : d ∈ spritePlaces sprite.length)
    (hbit : spriteBitAt sprite d = true) :
    spriteHits c col row sprite (spriteCell c col row d).1 (spriteCell c col row d).2 = 1 := by
  have honly : ∀ d' ∈ spritePlaces sprite.length,
      hitsCell c col row sprite (spriteCell c col row d) d' = true ↔ (d' == d) = true := fun d' hd' => by
    rw [hitsCell, Bool.and_eq_true, decide_eq_true_eq, beq_iff_eq]
    exact ⟨fun ⟨hc, _⟩ => spriteCell_injective hfits col row hd' hd hc, fun he => ⟨congrArg _ he, he ▸ hbit⟩⟩
  rw [spriteHits_eq_countP, List.countP_congr honly]
  exact List.count_eq_one_of_mem (nodup_spritePlaces _) hd

/-- After the sprite, its bits 1 meet the opposite of what they met before. -/
theorem spriteMeets_after {c : Config} {f : Framebuffer} {col row : Nat} {sprite : List Byte}
    (hfits : c.spriteFits sprite.length = true) (hl : f.length = c.rows * c.cols) :
    spriteMeets c col row sprite (xorSprite c col row sprite f).1 true ↔ spriteMeets c col row sprite f false := by
  simp only [spriteMeets_iff]
  refine exists_congr fun d => and_congr_right fun hd => and_congr_right fun hbit => ?_
  rw [pixel_xorSprite hl col row sprite _ (spriteCell_snd_lt d), spriteHits_eq_one hfits hd hbit]
  simp

theorem byte_ne_zero_iff (b : Byte) : b ≠ 0 ↔ ∃ dx < 8, spriteBit b dx = true := by
  constructor
  · intro hne
    by_contra hno
    refine hne (BitVec.eq_of_getLsbD_eq fun k hk => ?_)
    have hbit : ¬ spriteBit b (7 - k) = true := fun h => hno ⟨7 - k, by omega, h⟩
    rw [spriteBit, show 7 - (7 - k) = k by omega] at hbit
    simpa using hbit
  · rintro ⟨dx, -, h⟩ rfl
    simp [spriteBit] at h

theorem exists_bit_iff (sprite : List Byte) :
    (∃ d ∈ spritePlaces sprite.length, spriteBitAt sprite d = true) ↔ ∃ b ∈ sprite, b ≠ 0 := by
  simp only [byte_ne_zero_iff]
  constructor
  · rintro ⟨⟨dy, dx⟩, hd, hbit⟩
    obtain ⟨hdy, hdx⟩ := mem_spritePlaces.mp hd
    exact ⟨sprite.getD dy 0, by rw [List.getD_eq_getElem _ _ hdy]; exact List.getElem_mem hdy, dx, hdx, hbit⟩
  · rintro ⟨b, hb, dx, hdx, hbit⟩
    obtain ⟨dy, hdy, rfl⟩ := List.getElem_of_mem hb
    exact ⟨(dy, dx), mem_spritePlaces.mpr ⟨hdy, hdx⟩, by rw [spriteBitAt, List.getD_eq_getElem _ _ hdy]; exact hbit⟩

/-- A sprite whose bits 1 have met no lit cell meets an unlit one exactly when it has a bit 1. -/
theorem spriteMeets_false_iff {c : Config} {f : Framebuffer} {col row : Nat} {sprite : List Byte}
    (h : ¬ spriteMeets c col row sprite f true) : spriteMeets c col row sprite f false ↔ ∃ b ∈ sprite, b ≠ 0 := by
  rw [← exists_bit_iff, spriteMeets_iff]
  refine exists_congr fun d => and_congr_right fun hd => and_iff_left_of_imp fun hbit => ?_
  exact Bool.eq_false_iff.mpr fun hlit => h ((spriteMeets_iff ..).mpr ⟨d, hd, hbit, hlit⟩)

/-- Settles O40: two toggles cancel; where the sprite fits, the second call meets the opposite of what the first one
met. -/
theorem drawingTwiceRestoresScreen : Obligations.DrawingTwiceRestoresScreen := by
  intro c col row sprite f hl
  refine ⟨xorSprite_twice hl col row sprite, fun hfits => ?_⟩
  have hflag := collisionFlagMeansLitPixelErased c col row sprite
  have hsecond : (xorSprite c col row sprite (xorSprite c col row sprite f).1).2 = true ↔
      spriteMeets c col row sprite f false :=
    (hflag _ hfits ((xorSprite_length ..).trans hl)).trans (spriteMeets_after hfits hl)
  refine ⟨hsecond, fun hfirst => hsecond.trans (spriteMeets_false_iff ?_)⟩
  rw [← hflag f hfits hl, hfirst]
  exact nofun

end Sys2Proof.Machine
end

section
/-!
SUPPORT. Proofs about the core cycle (R57, R78), the host's calls (R262 to R266) and what changes only at a hand-off
(R239, R269), with what a step does to the scheduler's fields said once.
-/

namespace Sys2Proof.Machine

/-! ### The core cycle (R57, R78) -/

theorem decode_fetchedBytes_eq_ok_iff {s : State} {i : Instr} :
    decode (fetchedBytes s) = .ok (i, []) ↔ decodeWord s.fetchWord = .ok i := by
  rw [fetchedBytes, decode, ← State.fetchWord]
  cases decodeWord s.fetchWord <;> simp

/-- Settles O7: the cycle is counted where `i` has left the task alive, and not where it has faulted. -/
theorem stepRunsDecodedInstruction : Obligations.StepRunsDecodedInstruction := by
  intro s slot i hn hd
  obtain ⟨t, ht⟩ := exec_total i s
  have hstep : step s = .next t.countCycle := by
    rw [step_of_fetchNext hn, fetchExecute_of_decodeWord hn.inRange (decode_fetchedBytes_eq_ok_iff.mp hd), ht,
      thenDo_next]
  obtain ⟨hcycles, ⟨-, htask⟩ | ⟨hfault, htask⟩⟩ := exec_keepsOrFaults ht
  · have hlive := htask.trans hn.live
    exact ⟨t, ht, .inl ⟨hlive, by rw [hstep, countCycle_live hlive, State.counted, hcycles]⟩⟩
  · exact ⟨t, ht, .inr ⟨htask, hfault, by rw [hstep, countCycle_exited htask]⟩⟩

/-- Settles O8: the check of `PC` comes before the fetch, and the faulting cycle is not counted. -/
theorem fetchBeyondMemoryFaults : Obligations.FetchBeyondMemoryFaults := by
  intro s slot hn hw hpc
  rw [step_of_cycleNext hn, coreCycle, hw, fetchExecute, if_pos hpc, raise_eq, thenDo_next, countCycle_exited rfl]

/-! ### The host's calls (R262, R264 to R266) -/

theorem step_of_hostCall {s : State} {c : HostCall} {rest : List HostCall} (h : s.hostCalls = c :: rest) :
    step s = .next (takeHostCall c { s with hostCalls := rest }) := by
  rw [step, machineStep, h]

theorem hostStart_spawned {s : State} (h : s.life = .idle) :
    hostStart true s =
      { s with running := true, life := .running, task := .live 0, replies := s.replies ++ [.done] } :=
  if_pos h

theorem hostStart_not_spawned {s : State} (h : s.life = .idle) :
    hostStart false s = { s with running := false, replies := s.replies ++ [.error .threadError] } := by
  rw [hostStart, if_pos h, ← h]
  rfl

theorem hostStop_of_running (joined : Bool) {s : State} (h : s.life = .running) :
    hostStop joined s = { s with running := false, joining := s.joining ++ [joined] } :=
  if_pos h

/-- Everything a host call can do: start the task, fail to, ask for a stop, write the keys, or reply and no more. -/
theorem takeHostCall_cases (c : HostCall) (s : State) :
    (s.life = .idle ∧ takeHostCall c s =
      { s with running := true, life := .running, task := .live 0, replies := s.replies ++ [.done] }) ∨
    (s.life = .idle ∧ takeHostCall c s = { s with running := false, replies := s.replies ++ [.error .threadError] }) ∨
    (∃ joined, s.life = .running ∧ takeHostCall c s = { s with running := false, joining := s.joining ++ [joined] }) ∨
    (∃ keys, c = .writeKeys keys ∧ takeHostCall c s = { s with hostKey := keys, replies := s.replies ++ [.done] }) ∨
    ∃ r, takeHostCall c s = s.replyWith r := by
  cases c with
  | start spawned =>
    by_cases hl : s.life = .idle
    · cases spawned with
      | true => exact .inl ⟨hl, hostStart_spawned hl⟩
      | false => exact .inr (.inl ⟨hl, hostStart_not_spawned hl⟩)
    · exact .inr (.inr (.inr (.inr ⟨_, hostStart_of_not_idle spawned hl⟩)))
  | stop joined =>
    by_cases hl : s.life = .running
    · exact .inr (.inr (.inl ⟨joined, hl, hostStop_of_running joined hl⟩))
    · exact .inr (.inr (.inr (.inr ⟨_, hostStop_of_not_running joined hl⟩)))
  | reinit => exact .inr (.inr (.inr (.inr ⟨_, rfl⟩)))
  | writeKeys keys => exact .inr (.inr (.inr (.inl ⟨keys, rfl, rfl⟩)))

/-- Settles O49: a pending call is taken first, and each one by the lifecycle state that it finds. -/
theorem hostCallsFollowLifecycle : Obligations.HostCallsFollowLifecycle := by
  intro s c rest h
  rw [step_of_hostCall h]
  refine ⟨_, rfl, ?_, ?_, ?_, ?_, ?_, ?_, ?_⟩
  · rintro hl rfl
    exact congrArg _ (hostStart_spawned hl)
  · rintro hl rfl
    exact congrArg _ (hostStart_not_spawned hl)
  · rintro b hl rfl
    exact congrArg _ (hostStart_of_not_idle b hl)
  · rintro b hl rfl
    exact congrArg _ (hostStop_of_running b hl)
  · rintro b hl rfl
    exact congrArg _ (hostStop_of_not_running b hl)
  · rintro rfl
    rfl
  · rintro keys rfl
    rfl

/-! ### The poll, and a waiting `stop()` (R233, R266) -/

theorem step_of_poll {s : State} (hc : s.hostCalls = []) (ht : s.task = .live 0) (hr : s.running = false) :
    step s = .next { s with task := .exited } := by
  simp only [step, machineStep, hc, machineMove, ht, taskStep, hr, and_self, if_true]

theorem step_of_joining {s : State} {joined : Bool} {rest : List Bool} (hc : s.hostCalls = []) (ht : s.task = .exited)
    (hj : s.joining = joined :: rest) : step s = .next (joinReturns joined { s with joining := rest }) := by
  simp only [step, machineStep, hc, machineMove, ht, hj]

/-- Settles O50: the poll ends the task, and then the oldest waiting `stop()` returns by its join. -/
theorem pollSeesStopAndStopReturns : Obligations.PollSeesStopAndStopReturns := fun _ hc =>
  ⟨step_of_poll hc, fun _ => step_of_joining hc, fun _ => step_of_joining hc⟩

/-! ### What a core cycle does to the scheduler's fields (R33, R222) -/

/-- What no core cycle touches, whether it faults or not. -/
structure KeepsHostSide (s t : State) : Prop where
  config : t.config = s.config
  key : t.key = s.key
  hostKey : t.hostKey = s.hostKey
  pub : t.pub = s.pub
  joining : t.joining = s.joining
  frames : t.frames = s.frames
  hostCalls : t.hostCalls = s.hostCalls

/-- The machine goes on as it was. -/
structure RunsOn (s t : State) : Prop where
  fault : t.fault = s.fault
  running : t.running = s.running
  life : t.life = s.life

/-- A fatal fault has ended the execution task (R222). -/
structure Halted (t : State) : Prop where
  fault : t.fault ≠ none
  running : t.running = false
  life : t.life = .stopped
  task : t.task = .exited

/-- What a cycle has done before it is counted. -/
structure CycleBody (s u : State) : Prop extends KeepsHostSide s u where
  cycles : u.cycles = s.cycles
  outcome : (RunsOn s u ∧ u.task = s.task) ∨ Halted u

theorem cycleBody_faulted (s : State) (c : FaultCode) : CycleBody s (s.faulted c) :=
  ⟨⟨rfl, rfl, rfl, rfl, rfl, rfl, rfl⟩, rfl, .inr ⟨Option.some_ne_none c, rfl, rfl, rfl⟩⟩

theorem KeepsOutside.cycleBody {s u : State} (h : KeepsOutside s u) : CycleBody s u :=
  ⟨⟨h.config, h.key, h.hostKey, h.pub, h.joining, h.frames, h.hostCalls⟩, h.cycles,
    .inl ⟨⟨h.fault, h.running, h.life⟩, h.task⟩⟩

theorem cycleBody_keyWaitCycle (w : KeyWait) (s : State) : CycleBody s (keyWaitCycle w s) := by
  rw [keyWaitCycle_frame]
  exact ⟨⟨rfl, rfl, rfl, rfl, rfl, rfl, rfl⟩, rfl, .inl ⟨⟨rfl, rfl, rfl⟩, rfl⟩⟩

theorem cycleBody_notFound (op : Half) (s : State) : CycleBody s (notFound op s) := by
  rcases notFound_cases op s with ⟨-, h⟩ | ⟨-, h⟩ | ⟨-, h⟩ <;> rw [h]
  · exact ⟨⟨rfl, rfl, rfl, rfl, rfl, rfl, rfl⟩, rfl, .inl ⟨⟨rfl, rfl, rfl⟩, rfl⟩⟩
  · exact ⟨⟨rfl, rfl, rfl, rfl, rfl, rfl, rfl⟩, rfl, .inl ⟨⟨rfl, rfl, rfl⟩, rfl⟩⟩
  · exact ⟨⟨rfl, rfl, rfl, rfl, rfl, rfl, rfl⟩, rfl, .inr ⟨Option.some_ne_none _, rfl, rfl, rfl⟩⟩

theorem fetchExecute_cycleBody {s u : State} (h : fetchExecute s = .next u) : CycleBody s u := by
  rcases fetchExecute_cases h with ⟨-, rfl⟩ | ⟨-, i, -, hi⟩ | ⟨-, -, rfl⟩
  · exact cycleBody_faulted s _
  · rcases exec_cases hi with hk | ⟨c, rfl⟩
    · exact hk.cycleBody
    · exact cycleBody_faulted s c
  · exact cycleBody_notFound _ s

/-- Every core cycle keeps the host's side, and either goes on and is counted, or has ended the task and is not. -/
theorem coreCycle_outcome {s t : State} {slot : Nat} (hn : CycleNext s slot) (h : coreCycle s = .next t) :
    KeepsHostSide s t ∧
      ((RunsOn s t ∧ t.task = .live (slot + 1) ∧ t.cycles = s.cycles + 1) ∨ (Halted t ∧ t.cycles = s.cycles)) := by
  obtain ⟨u, hu, rfl⟩ : ∃ u, CycleBody s u ∧ t = u.countCycle := by
    rcases coreCycle_cases h with ⟨w, -, rfl⟩ | ⟨-, u, hu, rfl⟩
    · exact ⟨_, cycleBody_keyWaitCycle w s, rfl⟩
    · exact ⟨u, fetchExecute_cycleBody hu, rfl⟩
  obtain ⟨hk, hcycles, ⟨hruns, htask⟩ | hhalt⟩ := hu
  · rw [countCycle_live (htask.trans hn.live)]
    exact ⟨⟨hk.config, hk.key, hk.hostKey, hk.pub, hk.joining, hk.frames, hk.hostCalls⟩,
      .inl ⟨⟨hruns.fault, hruns.running, hruns.life⟩, rfl, congrArg (· + 1) hcycles⟩⟩
  · rw [countCycle_exited hhalt.task]
    exact ⟨hk, .inr ⟨hhalt, hcycles⟩⟩

theorem State.countCycle_frame (s : State) :
    s.countCycle = { s with cycles := s.countCycle.cycles, task := s.countCycle.task } := by
  unfold State.countCycle
  split <;> rfl

/-! ### What every other step leaves alone -/

/-- Outside a core cycle and a frame's end a step touches the lifecycle and the host's lists only. -/
def KeepsCore (s t : State) : Prop :=
  t = { s with hostKey := t.hostKey, running := t.running, life := t.life, task := t.task, joining := t.joining,
               hostCalls := t.hostCalls, replies := t.replies }

theorem keepsCore_takeHostCall (c : HostCall) (rest : List HostCall) (s : State) :
    KeepsCore s (takeHostCall c { s with hostCalls := rest }) := by
  rcases takeHostCall_cases c { s with hostCalls := rest } with ⟨-, h⟩ | ⟨-, h⟩ | ⟨_, -, h⟩ | ⟨_, -, h⟩ | ⟨_, h⟩ <;>
    rw [h] <;> rfl

theorem keepsCore_joinReturns (joined : Bool) (rest : List Bool) (s : State) :
    KeepsCore s (joinReturns joined { s with joining := rest }) := by
  cases joined <;> rfl

/-- A step is a core cycle, the end of a frame, or leaves the core alone. -/
theorem step_core_cases {s t : State} (h : step s = .next t) :
    KeepsCore s t ∨ (∃ slot, CycleNext s slot ∧ coreCycle s = .next t) ∨
      ∃ slot, FrameEndNext s slot ∧ t = s.endFrame := by
  rcases step_cases h with ⟨c, rest, -, rfl⟩ | ⟨-, -, -, rfl⟩ | hcycle | hend | ⟨joined, rest, -, -, -, rfl⟩
  · exact .inl (keepsCore_takeHostCall c rest s)
  · exact .inl rfl
  · exact .inr (.inl hcycle)
  · exact .inr (.inr hend)
  · exact .inl (keepsCore_joinReturns joined rest s)

/-! ### What changes at a hand-off only (R239, R269) -/

/-- A core cycle fetches an instruction and executes it, or leaves the timers alone. -/
theorem coreCycle_timers {s t : State} (h : coreCycle s = .next t) :
    (t.dt = s.dt ∧ t.st = s.st) ∨ (s.wait = none ∧ s.pc.toNat ≤ 0xFFE ∧ ∃ i u,
      decodeWord s.fetchWord = .ok i ∧ exec i s = .next u ∧ t.dt = u.dt ∧ t.st = u.st) := by
  rcases coreCycle_cases h with ⟨w, -, rfl⟩ | ⟨hw, u, hu, rfl⟩
  · rw [State.countCycle_frame, keyWaitCycle_frame]
    exact .inl ⟨rfl, rfl⟩
  · rw [State.countCycle_frame]
    rcases fetchExecute_cases hu with ⟨-, rfl⟩ | ⟨hpc, i, hd, hi⟩ | ⟨-, -, rfl⟩
    · exact .inl ⟨rfl, rfl⟩
    · exact .inr ⟨hw, hpc, i, u, hd, hi, rfl, rfl⟩
    · refine .inl ?_
      rcases notFound_cases s.fetchWord s with ⟨-, hs⟩ | ⟨-, hs⟩ | ⟨-, hs⟩ <;> rw [hs] <;> exact ⟨rfl, rfl⟩

theorem step_latch_writer {s t : State} (h : step s = .next t) (hne : t.key ≠ s.key ∨ t.pub ≠ s.pub) :
    ∃ slot, FrameEndNext s slot := by
  rcases step_core_cases h with hk | ⟨slot, hn, hcycle⟩ | ⟨slot, hn, -⟩
  · exact absurd hne (not_or.mpr ⟨not_not.mpr (congrArg State.key hk :), not_not.mpr (congrArg State.pub hk :)⟩)
  · obtain ⟨hk, -⟩ := coreCycle_outcome hn hcycle
    exact absurd hne (not_or.mpr ⟨not_not.mpr hk.key, not_not.mpr hk.pub⟩)
  · exact ⟨slot, hn⟩

theorem takeHostCall_hostKey_writer {c : HostCall} {s : State} (hne : (takeHostCall c s).hostKey ≠ s.hostKey) :
    c = .writeKeys (takeHostCall c s).hostKey := by
  rcases takeHostCall_cases c s with ⟨-, h⟩ | ⟨-, h⟩ | ⟨_, -, h⟩ | ⟨keys, rfl, -⟩ | ⟨_, h⟩
  · exact absurd (congrArg State.hostKey h) hne
  · exact absurd (congrArg State.hostKey h) hne
  · exact absurd (congrArg State.hostKey h) hne
  · rfl
  · exact absurd (congrArg State.hostKey h) hne

theorem joinReturns_hostKey (joined : Bool) (s : State) : (joinReturns joined s).hostKey = s.hostKey := by
  cases joined <;> rfl

theorem step_hostKey_writer {s t : State} (h : step s = .next t) (hne : t.hostKey ≠ s.hostKey) :
    ∃ keys rest, s.hostCalls = .writeKeys keys :: rest ∧ t.hostKey = keys := by
  rcases step_cases h with ⟨c, rest, hc, rfl⟩ | ⟨-, -, -, rfl⟩ | ⟨slot, hn, hcycle⟩ | ⟨slot, -, rfl⟩ |
    ⟨joined, rest, -, -, -, rfl⟩
  · exact ⟨_, rest, by rw [hc, ← takeHostCall_hostKey_writer hne], rfl⟩
  · exact absurd rfl hne
  · exact absurd (coreCycle_outcome hn hcycle).1.hostKey hne
  · exact absurd rfl hne
  · exact absurd (joinReturns_hostKey joined _) hne

/-- A step that changes a timer is the end of a frame, or fetches an instruction that changes it. -/
theorem step_timer_writer {s t : State} (h : step s = .next t) (hne : t.dt ≠ s.dt ∨ t.st ≠ s.st) :
    (∃ slot, FrameEndNext s slot) ∨ ∃ slot i u, FetchNext s slot ∧ decode (fetchedBytes s) = .ok (i, []) ∧
      exec i s = .next u ∧ t.dt = u.dt ∧ t.st = u.st := by
  rcases step_core_cases h with hk | ⟨slot, hn, hcycle⟩ | ⟨slot, hn, -⟩
  · exact absurd hne (not_or.mpr ⟨not_not.mpr (congrArg State.dt hk :), not_not.mpr (congrArg State.st hk :)⟩)
  · rcases coreCycle_timers hcycle with ⟨hdt, hst⟩ | ⟨hw, hpc, i, u, hd, hi, htimers⟩
    · exact absurd hne (not_or.mpr ⟨not_not.mpr hdt, not_not.mpr hst⟩)
    · exact .inr ⟨slot, i, u, ⟨hn, hw, hpc⟩, decode_fetchedBytes_eq_ok_iff.mpr hd, hi, htimers⟩
  · exact .inl ⟨slot, hn⟩

/-- Settles O47: by the kinds of step, of host call and of instruction that can write each field. -/
theorem keysAndScreenChangeOnlyAtHandOff : Obligations.KeysAndScreenChangeOnlyAtHandOff := by
  intro s t h
  refine ⟨step_latch_writer h, step_hostKey_writer h, fun hne => ?_, fun hne => ?_⟩
  · refine (step_timer_writer h (.inl hne)).imp_right fun ⟨slot, i, u, hn, hd, hi, hdt, _⟩ => ?_
    obtain ⟨-, -, -, -, -, -, hwriter, -⟩ := eachFieldHasItsWriters i s u hi
    obtain ⟨x, rfl⟩ := hwriter (hdt ▸ hne)
    exact ⟨slot, x, hn, hd⟩
  · refine (step_timer_writer h (.inr hne)).imp_right fun ⟨slot, i, u, hn, hd, hi, _, hst⟩ => ?_
    obtain ⟨-, -, -, -, -, -, -, hwriter, -⟩ := eachFieldHasItsWriters i s u hi
    obtain ⟨x, rfl⟩ := hwriter (hst ▸ hne)
    exact ⟨slot, x, hn, hd⟩

/-! ### A stop takes effect within one frame (R207, R273) -/

theorem run_succ_of_step {s t : State} (k : Nat) (h : step s = .next t) :
    Host.Core.run core (k + 1) s = Host.Core.run core k t := by
  simp only [Host.Core.run]
  rw [show core.step s = .next t from h]

/-- Within so many steps the execution task exits, with at most so many frames and cycles completed. -/
def ExitsWithin (s : State) (steps frames cycles : Nat) : Prop :=
  ∃ k t, k ≤ steps ∧ Host.Core.run core k s = .next t ∧ t.task = .exited ∧ t.frames ≤ frames ∧ t.cycles ≤ cycles

theorem ExitsWithin.of_exited {s : State} {steps frames cycles : Nat} (h : s.task = .exited) (hf : s.frames ≤ frames)
    (hc : s.cycles ≤ cycles) : ExitsWithin s steps frames cycles :=
  ⟨0, s, Nat.zero_le _, rfl, h, hf, hc⟩

theorem ExitsWithin.of_step {s t : State} {steps frames cycles : Nat} (h : step s = .next t)
    (ht : ExitsWithin t steps frames cycles) : ExitsWithin s (steps + 1) frames cycles := by
  obtain ⟨k, u, hk, hrun, hu⟩ := ht
  exact ⟨k + 1, u, Nat.succ_le_succ hk, (run_succ_of_step k h).trans hrun, hu⟩

/-- A frame start that sees the stop exits in one step. -/
theorem exitsWithin_of_poll {s : State} {steps frames cycles : Nat} (hc : s.hostCalls = []) (hr : s.running = false)
    (ht : s.task = .live 0) (hf : s.frames ≤ frames) (hcy : s.cycles ≤ cycles) :
    ExitsWithin s (steps + 1) frames cycles :=
  .of_step (step_of_poll hc ht hr) (.of_exited rfl hf hcy)

/-- The remaining cycles of the frame one by one, then its end, then the poll; a fault ends the task earlier. -/
theorem exitsWithin_of_stopped (n : Nat) : ∀ {s : State} {slot : Nat}, s.hostCalls = [] → s.running = false →
    s.task = .live slot → s.config.cyclesPerFrame - slot = n → ExitsWithin s (n + 2) (s.frames + 1) (s.cycles + n) := by
  induction n with
  | zero =>
    intro s slot hc hr ht hleft
    by_cases h0 : slot = 0
    · subst h0
      exact exitsWithin_of_poll hc hr ht (Nat.le_succ _) (Nat.le_add_right ..)
    · have hn : FrameEndNext s slot := ⟨hc, ht, Nat.sub_eq_zero_iff_le.mp hleft, fun h => absurd h h0⟩
      exact .of_step (step_of_frameEndNext hn) (exitsWithin_of_poll hc hr rfl le_rfl le_rfl)
  | succ n ih =>
    intro s slot hc hr ht hleft
    by_cases h0 : slot = 0
    · subst h0
      exact exitsWithin_of_poll hc hr ht (Nat.le_succ _) (Nat.le_add_right ..)
    · have hn : CycleNext s slot := ⟨hc, ht, by omega, fun h => absurd h h0⟩
      obtain ⟨u, -, hcycle⟩ := coreCycle_eq_countCycle s
      refine ExitsWithin.of_step ((step_of_cycleNext hn).trans hcycle) ?_
      obtain ⟨hk, ⟨hruns, htask, hcycles⟩ | ⟨hhalt, hcycles⟩⟩ := coreCycle_outcome hn hcycle
      · have hexits := ih (hk.hostCalls.trans hc) (hruns.running.trans hr) htask (by rw [hk.config]; omega)
        rwa [hk.frames, hcycles, Nat.add_assoc, Nat.add_comm 1] at hexits
      · exact .of_exited hhalt.task (by rw [hk.frames]; omega) (by omega)

/-- Settles O51: by induction on the cycles that are left of the frame. -/
theorem stopTakesEffectWithinOneFrame : Obligations.StopTakesEffectWithinOneFrame :=
  fun _ _ hc hr ht => exitsWithin_of_stopped _ hc hr ht rfl

end Sys2Proof.Machine
end

section
/-!
SUPPORT. The invariants of the machine: each holds after initialization and of every created machine (R40, R260, R261),
and every step keeps it (R24, R31, R32, R50, R222, R233, R235, R264).
-/

namespace Sys2Proof.Machine

/-! ### Memory and both screens (R31, R32, R50) -/

theorem storeBytes_mem_wf {s : State} {bs : List Byte} (hm : s.mem.wf = true) (hr : s.i.toNat + bs.length ≤ 0x1000) :
    (s.storeBytes bs).mem.wf = true :=
  memWriteBytes_wf hm hr

theorem exec_keeps_mem_wf {i : Instr} {s t : State} (hm : s.mem.wf = true) (h : exec i s = .next t) :
    t.mem.wf = true := by
  obtain ⟨-, -, -, hwriter, -⟩ := eachFieldHasItsWriters i s t h
  by_cases hsame : t.mem = s.mem
  · rwa [hsame]
  · obtain ⟨x, rfl | rfl⟩ := hwriter hsame
    · rw [exec_ldB] at h
      rcases withTransfer_cases h with ⟨hr, rfl⟩ | ⟨-, rfl⟩
      · exact storeBytes_mem_wf hm (show s.i.toNat + 3 ≤ 0x1000 by omega)
      · exact hm
    · rw [exec_storeRegs] at h
      rcases withTransfer_cases h with ⟨hr, rfl⟩ | ⟨-, rfl⟩
      · exact storeBytes_mem_wf hm (by rw [s.length_regBlock]; omega)
      · exact hm

theorem exec_keeps_fb_length {i : Instr} {s t : State} (hl : s.fb.length = s.config.rows * s.config.cols)
    (h : exec i s = .next t) : t.fb.length = s.config.rows * s.config.cols := by
  obtain ⟨-, -, -, -, -, -, -, -, hwriter, -⟩ := eachFieldHasItsWriters i s t h
  by_cases hsame : t.fb = s.fb
  · rwa [hsame]
  · rcases hwriter hsame with rfl | ⟨x, y, n, rfl⟩
    · rw [exec_cls] at h
      cases h
      exact length_blankScreen s.config
    · rw [exec_drw] at h
      rcases withTransfer_cases h with ⟨-, rfl⟩ | ⟨-, rfl⟩
      · exact (xorSprite_length ..).trans hl
      · exact hl

theorem exec_dataOk {i : Instr} {s t : State} (hs : DataOk s) (h : exec i s = .next t) : DataOk t := by
  rcases exec_cases h with hk | ⟨c, rfl⟩
  · refine ⟨exec_keeps_mem_wf hs.mem h, ?_, ?_⟩
    · rw [hk.config]
      exact exec_keeps_fb_length hs.fb h
    · rw [hk.config, hk.pub]
      exact hs.pub
  · exact ⟨hs.mem, hs.fb, hs.pub⟩

theorem notFound_dataOk (op : Half) {s : State} (hs : DataOk s) : DataOk (notFound op s) := by
  rcases notFound_cases op s with ⟨-, h⟩ | ⟨-, h⟩ | ⟨-, h⟩ <;> rw [h] <;> exact ⟨hs.mem, hs.fb, hs.pub⟩

theorem coreCycle_dataOk {s t : State} (hs : DataOk s) (h : coreCycle s = .next t) : DataOk t := by
  rcases coreCycle_cases h with ⟨w, -, rfl⟩ | ⟨-, u, hu, rfl⟩
  · rw [State.countCycle_frame, keyWaitCycle_frame]
    exact ⟨hs.mem, hs.fb, hs.pub⟩
  · have hok : DataOk u := by
      rcases fetchExecute_cases hu with ⟨-, rfl⟩ | ⟨-, i, -, hi⟩ | ⟨-, -, rfl⟩
      · exact ⟨hs.mem, hs.fb, hs.pub⟩
      · exact exec_dataOk hs hi
      · exact notFound_dataOk _ hs
    rw [State.countCycle_frame]
    exact ⟨hok.mem, hok.fb, hok.pub⟩

/-- Settles O53: stores and drawings keep their invariant, and a frame's end publishes a whole screen. -/
theorem stepKeepsMemoryAndScreensWellFormed : Obligations.StepKeepsMemoryAndScreensWellFormed := by
  intro s t hs h
  rcases step_core_cases h with hk | ⟨slot, -, hcycle⟩ | ⟨slot, -, rfl⟩
  · rw [hk]
    exact ⟨hs.mem, hs.fb, hs.pub⟩
  · exact coreCycle_dataOk hs hcycle
  · exact ⟨hs.mem, hs.fb, hs.fb⟩

/-! ### `RUNNING`, `LIFE`, `FAULT` and the task (R222, R233, R264 to R266) -/

/-- Before `start()` no fault is recorded, because no cycle has run. -/
theorem LifecycleOk.fault_of_idle {s : State} (hs : LifecycleOk s) (h : s.life = .idle) : s.fault = none := by
  by_contra hf
  obtain ⟨-, hstopped⟩ := hs.fault hf
  exact absurd (hstopped.symm.trans h) nofun

theorem takeHostCall_lifecycleOk (c : HostCall) {s : State} (hs : LifecycleOk s) : LifecycleOk (takeHostCall c s) := by
  rcases takeHostCall_cases c s with ⟨hidle, h⟩ | ⟨hidle, h⟩ | ⟨joined, hrun, h⟩ | ⟨keys, -, h⟩ | ⟨r, h⟩ <;> rw [h]
  · have hfault := hs.fault_of_idle hidle
    exact ⟨⟨nofun, nofun⟩, fun _ _ => ⟨rfl, hfault⟩, fun _ => ⟨0, rfl⟩, fun hf => absurd hfault hf, fun _ => nofun⟩
  · exact ⟨hs.idle, hs.live, nofun, hs.fault, hs.joining⟩
  · exact ⟨hs.idle, hs.live, nofun, hs.fault, fun _ hidle => absurd (hrun.symm.trans hidle) nofun⟩
  · exact ⟨hs.idle, hs.live, hs.running, hs.fault, hs.joining⟩
  · exact ⟨hs.idle, hs.live, hs.running, hs.fault, hs.joining⟩

theorem LifecycleOk.of_halted {t : State} (h : Halted t) : LifecycleOk t where
  idle := by rw [h.life, h.task]; exact ⟨nofun, nofun⟩
  live slot hlive := absurd (h.task.symm.trans hlive) nofun
  running hr := absurd (h.running.symm.trans hr) nofun
  fault _ := ⟨h.task, h.life⟩
  joining _ := by rw [h.life]; exact nofun

theorem LifecycleOk.of_live {t : State} {slot : Nat} (ht : t.task = .live slot) (hl : t.life = .running)
    (hf : t.fault = none) : LifecycleOk t where
  idle := by rw [hl, ht]; exact ⟨nofun, nofun⟩
  live _ _ := ⟨hl, hf⟩
  running _ := ⟨slot, ht⟩
  fault h := absurd hf h
  joining _ := by rw [hl]; exact nofun

theorem poll_lifecycleOk {s : State} (hs : LifecycleOk s) (ht : s.task = .live 0) (hr : s.running = false) :
    LifecycleOk { s with task := .exited } := by
  obtain ⟨hlife, hfault⟩ := hs.live 0 ht
  exact ⟨⟨fun hidle => absurd (hlife.symm.trans hidle) nofun, nofun⟩, nofun, fun h => absurd (hr.symm.trans h) nofun,
    fun h => absurd hfault h, fun _ hidle => absurd (hlife.symm.trans hidle) nofun⟩

theorem joinReturns_lifecycleOk (joined : Bool) {s : State} (hs : LifecycleOk s) (ht : s.task = .exited) :
    LifecycleOk (joinReturns joined s) := by
  cases joined with
  | false => exact ⟨hs.idle, hs.live, hs.running, hs.fault, hs.joining⟩
  | true =>
    exact ⟨⟨nofun, fun h => absurd (ht.symm.trans h) nofun⟩, fun slot h => absurd (ht.symm.trans h) nofun, hs.running,
      fun _ => ⟨ht, rfl⟩, fun _ => nofun⟩

/-- Settles O54: by the kinds of step; a core cycle goes on or has halted. -/
theorem stepKeepsLifecycleConsistent : Obligations.StepKeepsLifecycleConsistent := by
  intro s t hs h
  rcases step_cases h with ⟨c, rest, -, rfl⟩ | ⟨-, ht, hr, rfl⟩ | ⟨slot, hn, hcycle⟩ | ⟨slot, hn, rfl⟩ |
    ⟨joined, rest, -, ht, hj, rfl⟩
  · exact takeHostCall_lifecycleOk c ⟨hs.idle, hs.live, hs.running, hs.fault, hs.joining⟩
  · exact poll_lifecycleOk hs ht hr
  · obtain ⟨hlife, hfault⟩ := hs.live slot hn.live
    obtain ⟨-, ⟨hruns, htask, -⟩ | ⟨hhalt, -⟩⟩ := coreCycle_outcome hn hcycle
    · exact .of_live htask (hruns.life.trans hlife) (hruns.fault.trans hfault)
    · exact .of_halted hhalt
  · obtain ⟨hlife, hfault⟩ := hs.live slot hn.live
    exact .of_live rfl hlife hfault
  · have hjoining : s.life ≠ .idle := hs.joining (by rw [hj]; exact nofun)
    exact joinReturns_lifecycleOk joined ⟨hs.idle, hs.live, hs.running, hs.fault, fun _ => hjoining⟩ ht

/-! ### `CYCLES` and the completed frames (R235) -/

theorem frameCountOk_live {s : State} {slot : Nat} (ht : s.task = .live slot) :
    FrameCountOk s ↔
      slot ≤ s.config.cyclesPerFrame ∧ s.cycles = s.frames * s.config.cyclesPerFrame + slot := by
  rw [FrameCountOk, ht]

theorem frameCountOk_exited {s : State} (ht : s.task = .exited) :
    FrameCountOk s ↔ (s.fault = none → s.cycles = s.frames * s.config.cyclesPerFrame) := by
  rw [FrameCountOk, ht]

theorem frameCountOk_notSpawned {s : State} (ht : s.task = .notSpawned) :
    FrameCountOk s ↔ s.cycles = 0 ∧ s.frames = 0 := by
  rw [FrameCountOk, ht]

/-- A host call leaves the count as it is; one that starts the task finds the count at 0. -/
theorem takeHostCall_frameCountOk (c : HostCall) {s : State} (hs : LifecycleOk s) (hc : FrameCountOk s) :
    FrameCountOk (takeHostCall c s) := by
  rcases takeHostCall_cases c s with ⟨hidle, h⟩ | ⟨-, h⟩ | ⟨_, -, h⟩ | ⟨_, -, h⟩ | ⟨_, h⟩ <;> rw [h]
  · obtain ⟨hcycles, hframes⟩ := (frameCountOk_notSpawned (hs.idle.mp hidle)).mp hc
    exact (frameCountOk_live rfl).mpr ⟨Nat.zero_le _, by simp only [hcycles, hframes, Nat.zero_mul]⟩
  · exact hc
  · exact hc
  · exact hc
  · exact hc

theorem joinReturns_frameCountOk (joined : Bool) {s : State} (hc : FrameCountOk s) :
    FrameCountOk (joinReturns joined s) := by
  cases joined <;> exact hc

theorem coreCycle_frameCountOk {s t : State} {slot : Nat} (hn : CycleNext s slot) (hc : FrameCountOk s)
    (h : coreCycle s = .next t) : FrameCountOk t := by
  obtain ⟨-, hcount⟩ := (frameCountOk_live hn.live).mp hc
  obtain ⟨hk, ⟨-, htask, hcycles⟩ | ⟨hhalt, -⟩⟩ := coreCycle_outcome hn h
  · rw [frameCountOk_live htask, hcycles, hk.frames, hk.config, hcount]
    exact ⟨hn.inFrame, Nat.add_assoc ..⟩
  · exact (frameCountOk_exited hhalt.task).mpr fun hf => absurd hf hhalt.fault

/-- At a frame's end exactly its cycles are done. -/
theorem endFrame_frameCountOk {s : State} {slot : Nat} (hn : FrameEndNext s slot) (hc : FrameCountOk s) :
    FrameCountOk s.endFrame := by
  obtain ⟨hslot, hcount⟩ := (frameCountOk_live hn.live).mp hc
  have hall : slot = s.config.cyclesPerFrame := le_antisymm hslot hn.allRun
  refine (frameCountOk_live (slot := 0) rfl).mpr ⟨Nat.zero_le _, ?_⟩
  calc s.cycles
    _ = s.frames * s.config.cyclesPerFrame + s.config.cyclesPerFrame := by rw [hcount, hall]
    _ = (s.frames + 1) * s.config.cyclesPerFrame + 0 := (Nat.succ_mul ..).symm

/-- Settles O55: a cycle adds 1 to both sides, and a frame's end moves a whole frame's cycles to the completed ones. -/
theorem stepKeepsCyclesTiedToFrames : Obligations.StepKeepsCyclesTiedToFrames := by
  intro s t hs hc h
  rcases step_cases h with ⟨c, rest, -, rfl⟩ | ⟨-, ht, -, rfl⟩ | ⟨slot, hn, hcycle⟩ | ⟨slot, hn, rfl⟩ |
    ⟨joined, rest, -, -, -, rfl⟩
  · exact takeHostCall_frameCountOk c ⟨hs.idle, hs.live, hs.running, hs.fault, hs.joining⟩ hc
  · obtain ⟨-, hcount⟩ := (frameCountOk_live ht).mp hc
    exact (frameCountOk_exited rfl).mpr fun _ => hcount
  · exact coreCycle_frameCountOk hn hc hcycle
  · exact endFrame_frameCountOk hn hc
  · exact joinReturns_frameCountOk joined hc

/-! ### `PC` and what it is loaded from (R24) -/

theorem advance_pc_le {s : State} (h : s.pc.toNat ≤ 0xFFE) : s.advance.pc.toNat ≤ 0x10FE := by
  rw [State.advance_pc]
  bv_omega

/-- What a fetched call pushes is the address it was fetched from. -/
theorem exec_keeps_stack_bound {i : Instr} {s t : State} (hs : PcOk s) (hpc : s.pc.toNat ≤ 0xFFE)
    (h : exec i s = .next t) (k : Nat) (hk : k < 16) : (t.stack[k]).toNat ≤ 0xFFE := by
  obtain ⟨-, -, -, -, hwriter, -⟩ := eachFieldHasItsWriters i s t h
  by_cases hsame : t.stack = s.stack
  · simpa only [hsame] using hs.stack k hk
  · obtain ⟨nnn, rfl⟩ := hwriter hsame
    rcases execCall_cases h with ⟨hsp, rfl⟩ | ⟨-, rfl⟩
    · simp only [Vector.getElem_set]
      split
      · exact hpc
      · exact hs.stack k hk
    · exact hs.stack k hk

theorem exec_pcOk {i : Instr} {s t : State} (hs : PcOk s) (hw : s.wait = none) (hpc : s.pc.toNat ≤ 0xFFE)
    (h : exec i s = .next t) : PcOk t := by
  obtain ⟨-, hbound⟩ := everyInstructionAdvancesPcByItsColumn
  refine ⟨hbound i s t hs hpc h, exec_keeps_stack_bound hs hpc h, fun hwait => ?_⟩
  obtain ⟨-, -, -, -, -, -, -, -, -, hwriter, -⟩ := eachFieldHasItsWriters i s t h
  obtain ⟨x, rfl⟩ := hwriter (hw ▸ hwait)
  cases h
  exact hpc

theorem notFound_pcOk (op : Half) {s : State} (hs : PcOk s) (hpc : s.pc.toNat ≤ 0xFFE) (hw : s.wait = none) :
    PcOk (notFound op s) := by
  rcases notFound_cases op s with ⟨-, h⟩ | ⟨-, h⟩ | ⟨-, h⟩ <;> rw [h]
  · exact ⟨hs.pc, hs.stack, hs.wait⟩
  · exact ⟨advance_pc_le hpc, hs.stack, absurd hw⟩
  · exact ⟨hs.pc, hs.stack, hs.wait⟩

theorem keyWaitCycle_pcOk {w : KeyWait} {s : State} (hs : PcOk s) (hw : s.wait = some w) :
    PcOk (keyWaitCycle w s) := by
  have hpc : s.pc.toNat ≤ 0xFFE := hs.wait (by rw [hw]; exact nofun)
  rcases newKey_cases s.key w.ref with ⟨k, hk, -⟩ | ⟨hnone, -⟩
  · rw [keyWaitCycle_of_some hk]
    exact ⟨advance_pc_le hpc, hs.stack, absurd rfl⟩
  · rw [keyWaitCycle_of_none hnone]
    exact ⟨hs.pc, hs.stack, fun _ => hpc⟩

theorem coreCycle_pcOk {s t : State} (hs : PcOk s) (h : coreCycle s = .next t) : PcOk t := by
  obtain ⟨u, hu, rfl⟩ : ∃ u, PcOk u ∧ t = u.countCycle := by
    rcases coreCycle_cases h with ⟨w, hw, rfl⟩ | ⟨hw, u, hu, rfl⟩
    · exact ⟨_, keyWaitCycle_pcOk hs hw, rfl⟩
    · refine ⟨u, ?_, rfl⟩
      rcases fetchExecute_cases hu with ⟨-, rfl⟩ | ⟨hpc, i, -, hi⟩ | ⟨hpc, -, rfl⟩
      · exact ⟨hs.pc, hs.stack, hs.wait⟩
      · exact exec_pcOk hs hw hpc hi
      · exact notFound_pcOk _ hs hpc hw
  rw [State.countCycle_frame]
  exact ⟨hu.pc, hu.stack, hu.wait⟩

/-- Settles O56: only a core cycle moves `PC`, from an address that has been fetched. -/
theorem stepKeepsPcBelowWrap : Obligations.StepKeepsPcBelowWrap := by
  intro s t hs h
  rcases step_core_cases h with hk | ⟨slot, -, hcycle⟩ | ⟨slot, -, rfl⟩
  · rw [hk]
    exact ⟨hs.pc, hs.stack, hs.wait⟩
  · exact coreCycle_pcOk hs hcycle
  · exact ⟨hs.pc, hs.stack, hs.wait⟩

/-! ### The machine before `start()` (R40, R260, R261) -/

/-- The machine after initialization, with the given parameters and memory (R40). -/
def initialState (c : Config) (m : Memory) : State :=
  { State.reset with config := c, mem := m, fb := blankScreen c, pub := blankScreen c }

theorem initialState_dataOk (c : Config) {m : Memory} (hm : m.wf = true) : DataOk (initialState c m) :=
  ⟨hm, length_blankScreen c, length_blankScreen c⟩

theorem initialState_lifecycleOk (c : Config) (m : Memory) : LifecycleOk (initialState c m) :=
  ⟨⟨fun _ => rfl, fun _ => rfl⟩, nofun, nofun, absurd rfl, absurd rfl⟩

theorem initialState_frameCountOk (c : Config) (m : Memory) : FrameCountOk (initialState c m) := ⟨rfl, rfl⟩

theorem initialState_pcOk (c : Config) (m : Memory) : PcOk (initialState c m) := by
  refine ⟨show 0x200 ≤ 0x10FE by decide, fun k hk => ?_, absurd rfl⟩
  simp [initialState, State.reset]

theorem initialState_safeRun (c : Config) (m : Memory) : SafeRun (initialState c m) := ⟨rfl, rfl⟩

theorem reset_eq_initialState : State.reset = initialState Config.default [] := rfl

/-- A created machine is the initial one with the font and the image in a canonical memory. -/
theorem create_eq_ok {r : CreateRequest} {s : State} (h : create r = .ok s) :
    ∃ m : Memory, m.wf = true ∧ s = initialState r.config m := by
  cases ha : r.allocated with
  | false => exact absurd ((create_not_allocated ha).symm.trans h) nofun
  | true =>
    cases hi : r.image with
    | none => exact absurd ((create_unreadable ha hi).symm.trans h) nofun
    | some image =>
      by_cases hl : image.length ≤ 3584
      · cases (create_ok ha hi hl).symm.trans h
        exact ⟨_, memWriteBytes_wf (zeroState_mem_wf r.config) (show 0x200 + _ ≤ 0xFFF + 1 by omega), rfl⟩
      · exact absurd ((create_too_long ha hi (Nat.lt_of_not_le hl)).symm.trans h) nofun

/-- Settles O57: with the default parameters and no byte written. -/
theorem resetMeetsEveryInvariant : Obligations.ResetMeetsEveryInvariant := by
  rw [Obligations.ResetMeetsEveryInvariant, reset_eq_initialState]
  exact ⟨initialState_dataOk _ rfl, initialState_lifecycleOk .., initialState_frameCountOk .., initialState_pcOk ..,
    initialState_safeRun ..⟩

/-- Settles O59: with the parameters asked for, and with the font and the image in memory. -/
theorem createdMachineMeetsEveryInvariant : Obligations.CreatedMachineMeetsEveryInvariant := by
  intro r s h
  obtain ⟨m, hm, rfl⟩ := create_eq_ok h
  exact ⟨initialState_dataOk _ hm, initialState_lifecycleOk .., initialState_frameCountOk .., initialState_pcOk ..,
    initialState_safeRun .., rfl, rfl, rfl, rfl, rfl⟩

end Sys2Proof.Machine
end
